-- ==== Sys2Proof/Word.lean ====
section
/-! DEFINITION. The word types of the block: bytes on the wire, 16-bit words (RPM, alarm word, durations),
the 64-bit mask of an id set, and exact fractions of a millisecond (00_scope.md R7, R11). -/

namespace Sys2Proof

/-- A byte: 8 bits, an unsigned value 0..255 (R11). -/
abbrev Byte := BitVec 8

/-- A 16-bit unsigned word: an RPM, an alarm word, a duration in milliseconds (R7). -/
abbrev Word16 := BitVec 16

/-- A set of slave ids as 64 bits: bit `i - 1` set iff id `i` (1..64) is a member (R22). -/
abbrev IdMask := BitVec 64

/-- An exact non-negative rational number of milliseconds (R255: "in exact rational arithmetic"), held as a
numerator and a denominator. -/
structure Fraction where
  num : Nat
  den : Nat
  deriving DecidableEq, Repr

end Sys2Proof
end

