-- ==== Sys2Proof/Config.lean ====
section
/-! DEFINITION. What an instance of the block fixes (00_scope.md R6) and the values the spec leaves open. No
constant here has a value Lean can compute: a claim holds whatever they are. -/

namespace Sys2Proof

/-- The parameters of R6 that a step reads. Every duration is 16 bits wide because it is loaded into a 16-bit
timer (R341). DEDUCED, notes/assumptions/1.md. -/
structure Params where
  /-- POLL_DELAY_MS, the scheduler's inter-cycle delay. -/
  pollDelay : Word16
  /-- POLL_READ_TIMEOUT_MS, the scheduler's one bounded read attempt. -/
  pollReadTimeout : Word16
  /-- SCAN_RETRY_SLEEP_MS, the pause between two attempts on one id. -/
  scanRetrySleep : Word16
  /-- FAULT_PAUSE_MS, the pause of a loop after a transport fault. -/
  faultPause : Word16
  /-- SLAVE_DELAY_MIN. -/
  slaveDelayMin : Word16
  /-- SLAVE_DELAY_MAX. -/
  slaveDelayMax : Word16
  /-- ACC_DEPTH, the capacity of S_ACC in bytes; `none` is "possibly unbounded". -/
  accDepth : Option Nat
  deriving DecidableEq, Repr, Inhabited

/-- The constraints R6 puts on the parameters. -/
def Params.wf (p : Params) : Bool :=
  decide (p.slaveDelayMin.toNat ≤ p.slaveDelayMax.toNat) &&
    match p.accDepth with
    | none => true
    | some n => decide (7 ≤ n)

/-- The parameters of this instance (R6: "none has a value in any source"). -/
opaque Config.params : Params

/-- NPORTS, the number of slave units (R6, R293). -/
opaque Config.nports : Nat

/-- RPM_RESET: what RPMMAP entry `id` holds after reset (R6, R44). -/
opaque Config.rpmReset : Nat → Word16

/-- ARB_POLICY: at its n-th use, which of the enabled internal events is taken (R172). -/
opaque Config.arbPolicy : Nat → Nat

/-- The value drawn for the n-th processing delay of a slave when the environment supplied none (R288). -/
opaque Config.slaveDraw : Nat → Word16

/-- At its n-th use, the order in which the units whose parts of one TICK step can be told apart are served;
a list of part numbers, those left out come after (R341; notes/assumptions/6.md). -/
opaque Config.tickOrder : Nat → List Nat

/-- Byte `i` of a buffer that ends before byte `i`, at the n-th use (R127 gives such a call no result;
notes/assumptions/9.md). -/
opaque Config.byteBeyondBuffer : Nat → Nat → Byte

end Sys2Proof
end

