-- ==== Sys2Proof/Syntax.lean ====
section
/-! DEFINITION. The instructions of the block: one constructor for each of the 25 rows of the opcode table, the
four frame kinds (30_encoding.md R91 to R93) and the 21 host operations (R104). -/

namespace Sys2Proof

/-- One row of the opcode table with its operands. A frame kind carries every field of its format that the row's
match and mask leave free, the checksum byte among them: R100 and R101 make the checksum and the SlaveId range
"conditions on top of the mask", and its meaning applies them. -/
inductive Instr where
  /-- REQ.READ: a Read request as a slave receives it (format REQ, R91, Command 0x05). -/
  | reqRead (id data1 data2 checksum : Byte)
  /-- REQ.SET: a Set request as a slave receives it (format REQ, R91, Command 0x06); Data1, Data2 are the RPM. -/
  | reqSet (id : Byte) (rpm : Word16) (checksum : Byte)
  /-- RSP.ACK: a TargetAck response as the master receives it (format ACK, R92). -/
  | rspAck (id : Byte) (rpm : Word16) (checksum : Byte)
  /-- RSP.READ: a Read response as the master receives it (format RRSP, R93). -/
  | rspRead (id : Byte) (rpm alarm : Word16) (checksum : Byte)
  /-- Host operation 0 (R122). -/
  | encodeRequest (id command data1 data2 : Byte)
  /-- Host operation 1 (R127). -/
  | decodeResponse (buffer : List Byte) (availableLen : Nat)
  /-- Host operation 2 (R124). -/
  | encodeTargetAck (id : Byte) (rpm : Word16)
  /-- Host operation 3 (R125). -/
  | encodeReadRsp (id : Byte) (rpm alarm : Word16)
  /-- Host operation 4 (R151). -/
  | alarmDecode (word : Word16)
  /-- Host operation 5 (R152). -/
  | alarmDescribe (flags : Word16)
  /-- Host operation 6 (R153). -/
  | alarmHasFault (flags : Word16)
  /-- Host operation 7 (R154). -/
  | alarmIsRemote (flags : Word16)
  /-- Host operation 8 (R190); `stop` is the operand the spec calls `end`. -/
  | scan (start stop retries : Byte) (interDelay readTimeout : Word16)
  /-- Host operation 9 (R211). -/
  | trySet (id : Byte) (rpm : Word16) (retries : Byte) (timeoutMs backoffMs : Word16)
  /-- Host operation 10 (R240). -/
  | pollStart
  /-- Host operation 11 (R241). -/
  | pollCancel
  /-- Host operation 12 (R255). -/
  | estimate (baud slaveCount frameBytes : Nat) (perSlaveProcessingMs : Fraction)
  /-- Host operation 13 (R313). -/
  | queueSet (id : Byte) (rpm : Word16)
  /-- Host operation 14 (R310). -/
  | setMaxRpm (value : Word16)
  /-- Host operation 15 (R312). -/
  | loadIdSet (set : IdMask)
  /-- Host operation 16 (R314). -/
  | setAlarm (word : Word16)
  /-- Host operation 17 (R315). -/
  | loadRpm (id : Byte) (rpm : Word16)
  /-- Host operation 18 (R316). -/
  | readRpm (id : Byte)
  /-- Host operation 19 (R317). The operand is the port number, which R293 gives with several slave units and the model
  always: DESIGN CHOICE, notes/assumptions/17.md. -/
  | slaveStart (port : Nat)
  /-- Host operation 20 (R318). The operand is the port number, as for SLAVE_START (notes/assumptions/17.md). -/
  | slaveStop (port : Nat)
  deriving DecidableEq, Repr

/-- True of the 21 host operations, false of the four frame kinds: a frame reaches the block through a
transport port, never through the host port (R9, R104). -/
def Instr.isHostOp : Instr → Bool
  | .reqRead _ _ _ _ | .reqSet _ _ _ | .rspAck _ _ _ | .rspRead _ _ _ _ => false
  | .encodeRequest _ _ _ _ | .decodeResponse _ _ | .encodeTargetAck _ _ | .encodeReadRsp _ _ _ => true
  | .alarmDecode _ | .alarmDescribe _ | .alarmHasFault _ | .alarmIsRemote _ => true
  | .scan _ _ _ _ _ | .trySet _ _ _ _ _ | .pollStart | .pollCancel | .estimate _ _ _ _ => true
  | .queueSet _ _ | .setMaxRpm _ | .loadIdSet _ | .setAlarm _ | .loadRpm _ _ | .readRpm _ => true
  | .slaveStart _ | .slaveStop _ => true

end Sys2Proof
end

