-- ==== Sys2Proof/Decode.lean ====
section
/-! DEFINITION. The constants D0 fixes (00_scope.md R5), the byte-order helpers, the checksum, the decoder of
frames and host operations, and the encoder. Frame formats: 30_encoding.md R91 to R93. The host operations' op
numbers: R104; the bytes of their operands are the model's own layout (DESIGN CHOICE, notes/assumptions/3.md). -/

namespace Sys2Proof

/-! ## Constants (R5) -/

/-- REQ_MAGIC, first byte. -/
abbrev reqMagic0 : Byte := 0x49
/-- REQ_MAGIC, second byte. -/
abbrev reqMagic1 : Byte := 0x53
/-- RSP_MAGIC, first byte. -/
abbrev rspMagic0 : Byte := 0x44
/-- RSP_MAGIC, second byte. -/
abbrev rspMagic1 : Byte := 0x54
/-- REQ_LEN. -/
abbrev reqLen : Nat := 7
/-- ACK_LEN. -/
abbrev ackLen : Nat := 7
/-- READRSP_LEN. -/
abbrev readRspLen : Nat := 9
/-- CMD_TARGETACK. -/
abbrev cmdTargetAck : Byte := 0x01
/-- CMD_READ. -/
abbrev cmdRead : Byte := 0x05
/-- CMD_SET. -/
abbrev cmdSet : Byte := 0x06
/-- ID_MIN. -/
abbrev idMin : Nat := 1
/-- ID_MAX. -/
abbrev idMax : Nat := 64
/-- MAXRPM_DEFAULT. -/
abbrev maxRpmDefault : Nat := 1500
/-- MAXRPM_CAP. -/
abbrev maxRpmCap : Nat := 2000

/-! ## Bytes of a word (R11, R63, R64) -/

/-- `v[15:8]` (R11). -/
def hi8 (v : Word16) : Byte := v.extractLsb' 8 8

/-- `v[7:0]` (R11). -/
def lo8 (v : Word16) : Byte := v.extractLsb' 0 8

/-- `{hi, lo}`, the 16-bit value `hi * 256 + lo` (R11). -/
def join16 (hi lo : Byte) : Word16 := hi ++ lo

/-- `sum8(s)`: the sum of the bytes modulo 256, the carry discarded at every addition (R120). -/
def sum8 : List Byte → Byte
  | [] => 0
  | b :: t => b + sum8 t

/-- `checksum_ok(f)`: the last byte is the sum of those before it (R121). -/
def checksumOk (f : List Byte) : Bool :=
  match f.getLast? with
  | none => false
  | some last => last == sum8 f.dropLast

/-- `resync(acc, m0, m1)`: drop bytes from the front, one at a time, until what is left could begin with the
magic (R129). -/
def resync (m0 m1 : Byte) : List Byte → List Byte
  | [] => []
  | [a] => if a = m0 then [a] else []
  | a :: b :: t => if a = m0 ∧ b = m1 then a :: b :: t else resync m0 m1 (b :: t)

/-- A slave id: `1 <= id <= 64` (R95). -/
def idInRange (id : Byte) : Bool := decide (idMin ≤ id.toNat) && decide (id.toNat ≤ idMax)

/-- The length of a response with this Command byte, none where it is no response command (R90, R101). -/
def responseLength (cmd : Byte) : Option Nat :=
  if cmd = cmdTargetAck then some ackLen
  else if cmd = cmdRead then some readRspLen
  else none

/-! ## The decoder -/

/-- Why bytes are no instruction. -/
inductive Reject where
  /-- No byte at all. -/
  | empty
  /-- The bytes end before the frame or the operands do. -/
  | truncated
  /-- The second magic byte is not the one the first calls for (R102 (a)). -/
  | badMagic
  /-- The Command byte is none of this direction (R94, R102 (b), (c)). -/
  | unknownCommand (cmd : Byte)
  /-- The first byte is neither a magic byte nor an op number 0..20 (R105). -/
  | unknownOperation (op : Byte)
  deriving DecidableEq, Repr

/-- The request direction (R100): seven bytes beginning 49 53, the Command selecting the row. -/
def decodeRequestFrame : List Byte → Except Reject (Instr × List Byte)
  | _ :: m1 :: id :: cmd :: d1 :: d2 :: ck :: rest =>
    if m1 ≠ reqMagic1 then .error .badMagic
    else if cmd = cmdRead then .ok (.reqRead id d1 d2 ck, rest)
    else if cmd = cmdSet then .ok (.reqSet id (join16 d1 d2) ck, rest)
    else .error (.unknownCommand cmd)
  | _ => .error .truncated

/-- The response direction (R101): bytes beginning 44 54, the Command selecting the row and its length. The
alarm word's low byte comes first (R64). -/
def decodeResponseFrame : List Byte → Except Reject (Instr × List Byte)
  | _ :: m1 :: id :: cmd :: body =>
    if m1 ≠ rspMagic1 then .error .badMagic
    else if cmd = cmdTargetAck then
      match body with
      | h :: l :: ck :: rest => .ok (.rspAck id (join16 h l) ck, rest)
      | _ => .error .truncated
    else if cmd = cmdRead then
      match body with
      | h :: l :: aLo :: aHi :: ck :: rest => .ok (.rspRead id (join16 h l) (join16 aHi aLo) ck, rest)
      | _ => .error .truncated
    else .error (.unknownCommand cmd)
  | _ => .error .truncated

/-- Read one byte of an operand. -/
def takeByte : List Byte → Option (Byte × List Byte)
  | [] => none
  | b :: t => some (b, t)

/-- Read a 16-bit operand, high byte first. -/
def takeWord : List Byte → Option (Word16 × List Byte)
  | h :: l :: t => some (join16 h l, t)
  | _ => none

/-- Read a 64-bit operand, highest byte first. -/
def takeMask : List Byte → Option (IdMask × List Byte)
  | a :: b :: c :: d :: e :: f :: g :: h :: t =>
    some ((a ++ b ++ c ++ d ++ e ++ f ++ g ++ h : BitVec 64), t)
  | _ => none

/-- Read a natural number: seven bits a byte, least significant first, bit 7 set on every byte but the last. -/
def takeNat : List Byte → Option (Nat × List Byte)
  | [] => none
  | b :: t =>
    if b.toNat < 128 then some (b.toNat, t)
    else match takeNat t with
      | some (n, r) => some (b.toNat % 128 + 128 * n, r)
      | none => none

/-- Read `n` bytes. -/
def takeBytes (n : Nat) (bs : List Byte) : Option (List Byte × List Byte) :=
  if n ≤ bs.length then some (bs.take n, bs.drop n) else none

/-- The operands of the host operation with number `op` (R104), in the order of the table's column. SLAVE_START and
SLAVE_STOP always read a port number, port 0 being the unit of an instance that has one, though the table's column
lists none and R293 gives one only with several units: DESIGN CHOICE, notes/assumptions/17.md. -/
def decodeOperands (op : Nat) (t : List Byte) : Option (Instr × List Byte) :=
  match op with
  | 0 => do
    let (id, t) ← takeByte t
    let (command, t) ← takeByte t
    let (data1, t) ← takeByte t
    let (data2, t) ← takeByte t
    some (.encodeRequest id command data1 data2, t)
  | 1 => do
    let (n, t) ← takeNat t
    let (buffer, t) ← takeBytes n t
    let (availableLen, t) ← takeNat t
    some (.decodeResponse buffer availableLen, t)
  | 2 => do
    let (id, t) ← takeByte t
    let (rpm, t) ← takeWord t
    some (.encodeTargetAck id rpm, t)
  | 3 => do
    let (id, t) ← takeByte t
    let (rpm, t) ← takeWord t
    let (alarm, t) ← takeWord t
    some (.encodeReadRsp id rpm alarm, t)
  | 4 => do let (w, t) ← takeWord t; some (.alarmDecode w, t)
  | 5 => do let (w, t) ← takeWord t; some (.alarmDescribe w, t)
  | 6 => do let (w, t) ← takeWord t; some (.alarmHasFault w, t)
  | 7 => do let (w, t) ← takeWord t; some (.alarmIsRemote w, t)
  | 8 => do
    let (start, t) ← takeByte t
    let (stop, t) ← takeByte t
    let (retries, t) ← takeByte t
    let (interDelay, t) ← takeWord t
    let (readTimeout, t) ← takeWord t
    some (.scan start stop retries interDelay readTimeout, t)
  | 9 => do
    let (id, t) ← takeByte t
    let (rpm, t) ← takeWord t
    let (retries, t) ← takeByte t
    let (timeoutMs, t) ← takeWord t
    let (backoffMs, t) ← takeWord t
    some (.trySet id rpm retries timeoutMs backoffMs, t)
  | 10 => some (.pollStart, t)
  | 11 => some (.pollCancel, t)
  | 12 => do
    let (baud, t) ← takeNat t
    let (slaveCount, t) ← takeNat t
    let (frameBytes, t) ← takeNat t
    let (num, t) ← takeNat t
    let (den, t) ← takeNat t
    some (.estimate baud slaveCount frameBytes ⟨num, den⟩, t)
  | 13 => do
    let (id, t) ← takeByte t
    let (rpm, t) ← takeWord t
    some (.queueSet id rpm, t)
  | 14 => do let (w, t) ← takeWord t; some (.setMaxRpm w, t)
  | 15 => do let (m, t) ← takeMask t; some (.loadIdSet m, t)
  | 16 => do let (w, t) ← takeWord t; some (.setAlarm w, t)
  | 17 => do
    let (id, t) ← takeByte t
    let (rpm, t) ← takeWord t
    some (.loadRpm id rpm, t)
  | 18 => do let (id, t) ← takeByte t; some (.readRpm id, t)
  | 19 => do let (p, t) ← takeNat t; some (.slaveStart p, t)
  | 20 => do let (p, t) ← takeNat t; some (.slaveStop p, t)
  | _ => none

/-- A host operation: its op number in the first byte, then its operands (R104, R105). -/
def decodeHostOp (op : Byte) (t : List Byte) : Except Reject (Instr × List Byte) :=
  if op.toNat ≤ 20 then
    match decodeOperands op.toNat t with
    | some r => .ok r
    | none => .error .truncated
  else .error (.unknownOperation op)

/-- The instruction at the front of a byte sequence and the bytes after it. The first byte tells a frame's
direction (R90) or is a host operation's number (R104). -/
def decode : List Byte → Except Reject (Instr × List Byte)
  | [] => .error .empty
  | b :: t =>
    if b = reqMagic0 then decodeRequestFrame (b :: t)
    else if b = rspMagic0 then decodeResponseFrame (b :: t)
    else decodeHostOp b t

/-! ## The encoder -/

/-- A 16-bit operand, high byte first. -/
def encodeWord (v : Word16) : List Byte := [hi8 v, lo8 v]

/-- A 64-bit operand, highest byte first. -/
def encodeMask (m : IdMask) : List Byte :=
  [m.extractLsb' 56 8, m.extractLsb' 48 8, m.extractLsb' 40 8, m.extractLsb' 32 8,
   m.extractLsb' 24 8, m.extractLsb' 16 8, m.extractLsb' 8 8, m.extractLsb' 0 8]

/-- A natural number, seven bits a byte; `fuel` bounds the number of bytes. -/
def encodeNatFuel : Nat → Nat → List Byte
  | 0, n => [BitVec.ofNat 8 n]
  | fuel + 1, n =>
    if n < 128 then [BitVec.ofNat 8 n]
    else BitVec.ofNat 8 (n % 128 + 128) :: encodeNatFuel fuel (n / 128)

/-- A natural number as `takeNat` reads it. -/
def encodeNat (n : Nat) : List Byte := encodeNatFuel n n

/-- The bytes of an instruction: a frame in wire order (R62, R91 to R93), a host operation as its op number and
its operands. -/
def encode : Instr → List Byte
  | .reqRead id d1 d2 ck => [reqMagic0, reqMagic1, id, cmdRead, d1, d2, ck]
  | .reqSet id rpm ck => [reqMagic0, reqMagic1, id, cmdSet, hi8 rpm, lo8 rpm, ck]
  | .rspAck id rpm ck => [rspMagic0, rspMagic1, id, cmdTargetAck, hi8 rpm, lo8 rpm, ck]
  | .rspRead id rpm alarm ck =>
    [rspMagic0, rspMagic1, id, cmdRead, hi8 rpm, lo8 rpm, lo8 alarm, hi8 alarm, ck]
  | .encodeRequest id command d1 d2 => [0, id, command, d1, d2]
  | .decodeResponse buffer n => 1 :: (encodeNat buffer.length ++ buffer ++ encodeNat n)
  | .encodeTargetAck id rpm => 2 :: id :: encodeWord rpm
  | .encodeReadRsp id rpm alarm => 3 :: id :: (encodeWord rpm ++ encodeWord alarm)
  | .alarmDecode w => 4 :: encodeWord w
  | .alarmDescribe w => 5 :: encodeWord w
  | .alarmHasFault w => 6 :: encodeWord w
  | .alarmIsRemote w => 7 :: encodeWord w
  | .scan start stop retries interDelay readTimeout =>
    8 :: start :: stop :: retries :: (encodeWord interDelay ++ encodeWord readTimeout)
  | .trySet id rpm retries timeoutMs backoffMs =>
    9 :: id :: (encodeWord rpm ++ retries :: (encodeWord timeoutMs ++ encodeWord backoffMs))
  | .pollStart => [10]
  | .pollCancel => [11]
  | .estimate baud slaveCount frameBytes p =>
    12 :: (encodeNat baud ++ encodeNat slaveCount ++ encodeNat frameBytes ++ encodeNat p.num ++ encodeNat p.den)
  | .queueSet id rpm => 13 :: id :: encodeWord rpm
  | .setMaxRpm w => 14 :: encodeWord w
  | .loadIdSet m => 15 :: encodeMask m
  | .setAlarm w => 16 :: encodeWord w
  | .loadRpm id rpm => 17 :: id :: encodeWord rpm
  | .readRpm id => [18, id]
  | .slaveStart p => 19 :: encodeNat p
  | .slaveStop p => 20 :: encodeNat p

/-! ## The opcode table's own numbering -/

/-- The `k` bytes of the number `w`, most significant first: the opcode table numbers a frame's bits "of the whole
frame read as one big-endian number" (30_encoding.md, section 2). -/
def tableBytes : Nat → Nat → List Byte
  | 0, _ => []
  | k + 1, w => BitVec.ofNat 8 (w / 2 ^ (8 * k)) :: tableBytes k w

/-- The operand bytes that the table gives no bits, all zero. -/
def zeroOperands : List Byte := List.replicate 16 0

/-- The bytes that an instruction whose table bits are `w` stands in memory as. -/
def tableWordBytes (nbits w : Nat) : List Byte := tableBytes (nbits / 8) w ++ zeroOperands

/-- The instruction the decoder reads from `w`, the bits of an opcode-table row as the table numbers them. -/
def decodeTableWord (nbits w : Nat) : Option Instr :=
  match decode (tableWordBytes nbits w) with
  | .ok (i, _) => some i
  | .error _ => none

end Sys2Proof
end

