-- ==== Sys2Proof/Machine/State.lean ====
section
/-! DEFINITION. The state of the block (10_state.md), its input and output events (00_scope.md R9, R10,
60_exceptions.md R343), the reasons a step stops, and the state after reset (R44). -/

namespace Sys2Proof.Machine

/-! ## Names -/

/-- The three master units (R168 calls one of them `U`). -/
inductive MasterUnit where
  | poll
  | sc
  | scan
  deriving DecidableEq, Repr

/-- LOCK: FREE, or the unit that owns the master transport (R25). -/
inductive Lock where
  | free
  | held (u : MasterUnit)
  deriving DecidableEq, Repr

/-- POLL.state (R31). -/
inductive PollState where
  | idle
  | transmitting
  | awaitingResponse
  | parsing
  | sleeping
  | cancelled
  deriving DecidableEq, Repr

/-- SC.state (R34). -/
inductive ScState where
  | idle
  | lockWait
  | transmit
  | await
  | backoff
  deriving DecidableEq, Repr

/-- SCAN.state (R36). -/
inductive ScanState where
  | idle
  | lockWait
  | transmit
  | await
  | retrySleep
  | interDelay
  deriving DecidableEq, Repr

/-- SLV.state (R37). -/
inductive SlvState where
  | stopped
  | paused
  | seeking
  | collecting
  | validating
  | dispatching
  deriving DecidableEq, Repr

/-- SLV.phase (R37). -/
inductive SlvPhase where
  | delay
  | send
  deriving DecidableEq, Repr

/-- The exceptions of R331. -/
inductive ExcKind where
  | truncated
  | badHeader
  | unknownCommand
  | checksumMismatch
  | idOutOfRange
  | timeout
  | setNotConfirmed
  | transportFault
  deriving DecidableEq, Repr

/-- D0's DecodeError (R126). -/
inductive DecodeError where
  | truncated
  | badHeader
  | unknownCommand
  | checksumMismatch
  deriving DecidableEq, Repr

/-- ParsedResponse (R126). -/
inductive ParsedResponse where
  | ack (id : Byte) (rpm : Word16)
  | readRsp (id : Byte) (rpm alarm : Word16)
  deriving DecidableEq, Repr

/-- What `decodeRequest` finds in a valid window (R128). -/
inductive ParsedRequest where
  | set (id : Byte) (rpm : Word16)
  | read (id : Byte)
  deriving DecidableEq, Repr

/-- A verdict of the receive reassembler (R165). -/
inductive Verdict where
  | ok (p : ParsedResponse) (w : List Byte)
  | bad (e : ExcKind) (w : List Byte)
  deriving DecidableEq, Repr

/-- The alarm word viewed as the record of R150; the eight reserved bits are kept as they are (R151). -/
structure AlarmFlags where
  overCurrentOrHall : Bool
  rpmTooHigh : Bool
  rpmTooLow : Bool
  ptcOverheatOrCable : Bool
  reserved : BitVec 8
  abnormalAnyAlarm : Bool
  ipmOverheat : Bool
  inputPowerFault : Bool
  localMode : Bool
  deriving DecidableEq, Repr

/-! ## Outputs (R10) -/

/-- The `unit` field of an event (R343). -/
inductive EvUnit where
  | master (u : MasterUnit)
  | slv
  deriving DecidableEq, Repr

/-- The `port` field of EV_XFAULT (R343). -/
inductive XPort where
  | m
  | s
  deriving DecidableEq, Repr

/-- The events published on EVOUT, in the order of their numbers 1 to 12 (R343). -/
inductive OutEvent where
  | read (id : Byte) (rpm alarm : Word16)
  | ack (id : Byte) (rpm : Word16)
  | decodeErr (unit : EvUnit) (kind : ExcKind)
  | timeout (unit : EvUnit) (id : Byte)
  | setWarning (id : BitVec 7) (rpm : Word16)
  | setResult (id : BitVec 7) (rpm : Word16) (ok : Bool)
  | scanDone (set : IdMask)
  | xfault (port : XPort)
  | txn (unit : MasterUnit) (id : Byte) (req rsp : List Byte) (ms : Word16) (timeout error : Bool)
  | pollStopped
  | sReq (id : Byte) (cmd : Byte) (rpm : Word16)
  | sStopped (port : Nat)
  deriving DecidableEq, Repr

/-- The value a pure host operation returns (R104, column "result"). -/
inductive HostResult where
  | frame (bytes : List Byte)
  | parsed (p : ParsedResponse)
  | decodeError (e : DecodeError)
  | alarmFlags (f : AlarmFlags)
  | conditions (bits : List Nat)
  | bit (b : Bool)
  | millis (q : Fraction)
  | rpm (v : Word16)
  deriving DecidableEq, Repr

/-! ## Inputs (R8, R9) -/

/-- One event: an input of the environment (R9) or an internal event (R171, R245). Events of a slave unit name
their port (R293). A host operation arrives as the bytes of its command. -/
inductive Input where
  | tick
  | mRx (b : Byte)
  | mTxByte
  | sRx (port : Nat) (b : Byte)
  | sTxByte (port : Nat)
  | mXfault
  | sXfault (port : Nat)
  | host (command : List Byte)
  | grant (u : MasterUnit)
  | pollSkip
  deriving DecidableEq, Repr

/-! ## Reasons to stop -/

/-- Why the machine stops with a fault. No event of the spec's own rules ends so: "the block as a whole never
halts" (R330). -/
inductive Fault where
  /-- Raised by an event or an operation that names a slave port the instance does not have (R293: NPORTS
  copies, numbered from 0). Safe: such a port has no rule. -/
  | noSuchPort (port : Nat)
  deriving DecidableEq, Repr

/-- Why an event has no step. -/
inductive Refusal where
  /-- Raised by exec for an instruction that has no meaning yet. Safe. -/
  | notModelled (mnemonic : String)
  /-- Raised by a host operation whose precondition fails: "not accepted: ... has no step; the state does not
  change and no value is returned" (R11, R105, U8). Safe: the block goes on as if it had not been issued. -/
  | notAccepted (mnemonic : String)
  /-- Raised by a host event whose bytes are no host operation, an op number 21..31 among them (R105). Safe. -/
  | notAnOperation (why : Reject)
  /-- Raised by a host event that holds a frame: frames do not arrive at the host port (R9, R104). Safe. -/
  | frameAtHostPort
  /-- Raised by an internal event that is not enabled (R171, R245). Safe: such an event cannot happen. -/
  | notEnabled
  /-- Raised by a byte for a slave whose accumulator is full: "the step is outside the rules" (R282, U3). Safe. -/
  | accumulatorFull (port : Nat)
  deriving DecidableEq, Repr

/-! ## Register groups -/

/-- PEND, the pending-Set slot (R24). -/
structure Pending where
  valid : Bool
  id : BitVec 7
  rpm : Word16
  deriving DecidableEq, Repr

/-- TXN, the record of the transaction in progress (R28). -/
structure Txn where
  req : List Byte
  elapsed : Word16
  deriving DecidableEq, Repr

/-- The POLL registers (R31 to R33). -/
structure Poll where
  state : PollState
  cursor : BitVec 6
  cancelReq : Bool
  timer : Word16
  curId : BitVec 7
  deriving DecidableEq, Repr

/-- The SC registers (R34, R35). -/
structure SetConfirm where
  state : ScState
  id : BitVec 7
  rpm : Word16
  left : BitVec 9
  timeout : Word16
  backoff : Word16
  timer : Word16
  sent : BitVec 9
  deriving DecidableEq, Repr

/-- The SCAN registers (R36). -/
structure Scan where
  state : ScanState
  cur : BitVec 7
  hi : BitVec 7
  retries : Byte
  left : BitVec 9
  interDelay : Word16
  readTimeout : Word16
  timer : Word16
  result : IdMask
  deriving DecidableEq, Repr

/-- One slave unit: its SLV registers, S_ACC and S_TXQ (R37, R38), one copy per port (R293), and `txOut`, the bytes its
port transmitted, S_TXOUT (R10). R10 names one S_TXOUT and R293 does not list it among the copies; the model keeps one
trace per port: DESIGN CHOICE, notes/assumptions/16.md. -/
structure Slave where
  state : SlvState
  phase : SlvPhase
  acc : List Byte
  txq : List Byte
  id : Byte
  cmd : Byte
  rpm : Word16
  timer : Word16
  cancelReq : Bool
  txOut : List Byte
  deriving DecidableEq, Repr

/-- The whole state of one block instance. -/
structure State where
  /-- The instance's parameters (R6). No step writes them. -/
  params : Params
  /-- RPMMAP[1..64]; entry `i` stands at index `i - 1` (R20). -/
  rpmMap : Vector Word16 64
  /-- MAXRPM (R21). -/
  maxRpm : BitVec 11
  /-- IDSET (R22). -/
  idSet : IdMask
  /-- S_ALARM (R23). -/
  sAlarm : Word16
  /-- PEND (R24). -/
  pend : Pending
  /-- LOCK (R25). -/
  lock : Lock
  /-- M_TXQ (R26). -/
  mTxq : List Byte
  /-- M_ACC (R27). -/
  mAcc : List Byte
  /-- TXN (R28). -/
  txn : Txn
  poll : Poll
  sc : SetConfirm
  scan : Scan
  /-- The slave units, port 0 first (R293). -/
  slaves : List Slave
  /-- M_TXOUT (R10). -/
  mTxOut : List Byte
  /-- EVOUT (R10). -/
  evOut : List OutEvent
  /-- The values host operations returned, in order (R10). -/
  retOut : List HostResult
  /-- The model's own: the events still to happen, first the next (R8, R9). -/
  inputs : List Input
  /-- The model's own: the processing delays the environment draws, SLAVE_DRAW(d), first the next (R9). -/
  draws : List Word16
  /-- The model's own: the slave port whose window was validated last. -/
  activePort : Nat
  /-- The model's own: how many free values the steps have used. -/
  freeCount : Nat
  deriving DecidableEq, Repr

/-! ## Reset (R44) -/

/-- A slave unit after reset. `phase`, `id`, `cmd`, `rpm` are unspecified (R44): DESIGN CHOICE,
notes/assumptions/4.md. -/
def Slave.reset : Slave :=
  { state := .stopped, phase := .delay, acc := [], txq := [], id := 0, cmd := 0, rpm := 0, timer := 0,
    cancelReq := false, txOut := [] }

/-- RPMMAP after reset: RPM_RESET(i) in entry i (R44). -/
def rpmMapReset : Vector Word16 64 :=
  ⟨((List.range 64).map fun i => Config.rpmReset (i + 1)).toArray, by simp⟩

/-- An instance with `ports` slave units right after reset (R44, R370, R371). Registers R44 calls unspecified hold
zero: DESIGN CHOICE, notes/assumptions/4.md. -/
def State.resetWith (ports : Nat) : State :=
  { params := Config.params
    rpmMap := rpmMapReset
    maxRpm := BitVec.ofNat 11 maxRpmDefault
    idSet := 0
    sAlarm := 0
    pend := { valid := false, id := 0, rpm := 0 }
    lock := .free
    mTxq := []
    mAcc := []
    txn := { req := [0, 0, 0, 0, 0, 0, 0], elapsed := 0 }
    poll := { state := .cancelled, cursor := 0, cancelReq := false, timer := 0, curId := 0 }
    sc := { state := .idle, id := 0, rpm := 0, left := 0, timeout := 0, backoff := 0, timer := 0, sent := 0 }
    scan := { state := .idle, cur := 0, hi := 0, retries := 0, left := 0, interDelay := 0, readTimeout := 0,
              timer := 0, result := 0 }
    slaves := List.replicate ports Slave.reset
    mTxOut := []
    evOut := []
    retOut := []
    inputs := []
    draws := []
    activePort := 0
    freeCount := 0 }

/-- The machine right after reset (R44, R370, R371), with the NPORTS slave units of the instance, none where NPORTS
is 0 (R6, R293). -/
def State.reset : State := State.resetWith Config.nports

end Sys2Proof.Machine
end

