-- ==== Sys2Proof/Machine/Operands.lean ====
section
/-! DEFINITION. How operands are read: clamps, saturation, offsets in a buffer, ids of a set (00_scope.md R11,
10_state.md R22). All arithmetic is on unsigned integers (R131). -/

namespace Sys2Proof.Machine

/-- `clamp(v, lo, hi)` (R11). -/
def clamp (v lo hi : Nat) : Nat := if v < lo then lo else if hi < v then hi else v

/-- `clamp(id, 1, 64)` as a byte (R122). -/
def clampId (id : Byte) : Byte := BitVec.ofNat 8 (clamp id.toNat idMin idMax)

/-- A target RPM limited to the ceiling, `min(rpm, MAXRPM)` (R211, R313). -/
def limitRpm (rpm : Word16) (maxRpm : BitVec 11) : Word16 := BitVec.ofNat 16 (min rpm.toNat maxRpm.toNat)

/-- A ceiling limited to the hard cap, `min(value, 2000)` (R310). -/
def limitMaxRpm (value : Word16) : BitVec 11 := BitVec.ofNat 11 (min value.toNat maxRpmCap)

/-- `retries + 1` in the nine bits of an attempt counter (R35, R36). -/
def attempts (retries : Byte) : BitVec 9 := retries.setWidth 9 + 1

/-- A slave id register as the byte of a frame. -/
def idByte (id : BitVec 7) : Byte := id.setWidth 8

/-- A frame's id byte as a slave id register; the ids of requests are 1..64 (R33). -/
def idRegister (b : Byte) : BitVec 7 := b.setWidth 7

/-- `buf[i]` for an offset inside the buffer (R11). -/
def byteAt (buf : List Byte) (i : Nat) : Byte := buf.getD i 0

/-- The ids of a set in ascending order (R22). -/
def members (set : IdMask) : List Nat := ((List.range 64).filter fun i => set.getLsbD i).map (· + 1)

/-- `size(IDSET)` (R22). -/
def setSize (set : IdMask) : Nat := (members set).length

/-- `nth(IDSET, k)`: the k-th smallest member, counted from 0 (R22). -/
def nth (set : IdMask) (k : Nat) : Nat := (members set).getD k 0

/-- A set with id `id` added (R194). -/
def addMember (set : IdMask) (id : Nat) : IdMask := set ||| (1 <<< (id - 1))

/-- One tick more on the saturating counter TXN.elapsed (R166). -/
def saturatingSucc (v : Word16) : Word16 := if v.toNat < 65535 then v + 1 else v

/-- A drawn processing delay kept within its bounds (R288). -/
def clampDelay (p : Params) (d : Word16) : Word16 :=
  BitVec.ofNat 16 (clamp d.toNat p.slaveDelayMin.toNat p.slaveDelayMax.toNat)

end Sys2Proof.Machine
end

