-- ==== Sys2Proof/Machine/Flags.lean ====
section
/-! DEFINITION. The alarm word's bits (41_alarmdecoder.md R150 to R155) and the numeric codes of exceptions and
events (60_exceptions.md R331, R343). The block has no condition codes (R40). -/

namespace Sys2Proof.Machine

/-- `FAULT_MASK` (R150). -/
def faultMask : Word16 := 0x700F

/-- `RESERVED_MASK` (R150). -/
def reservedMask : Word16 := 0x0FF0

/-- The bits of the specific conditions, those the aggregate bit sums up (R155). -/
def specificMask : Word16 := 0x600F

/-- The alarm word as a record of its bits, the reserved ones kept (R151). -/
def alarmFlagsOf (w : Word16) : AlarmFlags :=
  { overCurrentOrHall := w.getLsbD 0
    rpmTooHigh := w.getLsbD 1
    rpmTooLow := w.getLsbD 2
    ptcOverheatOrCable := w.getLsbD 3
    reserved := w.extractLsb' 4 8
    abnormalAnyAlarm := w.getLsbD 12
    ipmOverheat := w.getLsbD 13
    inputPowerFault := w.getLsbD 14
    localMode := w.getLsbD 15 }

/-- The record converted back to a word (R151). -/
def alarmWordOf (f : AlarmFlags) : Word16 :=
  BitVec.ofBool f.localMode ++ BitVec.ofBool f.inputPowerFault ++ BitVec.ofBool f.ipmOverheat ++
    BitVec.ofBool f.abnormalAnyAlarm ++ f.reserved ++ BitVec.ofBool f.ptcOverheatOrCable ++
    BitVec.ofBool f.rpmTooLow ++ BitVec.ofBool f.rpmTooHigh ++ BitVec.ofBool f.overCurrentOrHall

/-- The condition bits in the canonical order (R152). -/
def conditionOrder : List Nat := [0, 1, 2, 3, 12, 13, 14]

/-- The bit numbers of the conditions that are set, in canonical order (R152). -/
def describeAlarm (w : Word16) : List Nat := conditionOrder.filter fun i => w.getLsbD i

/-- Some fault bit is set (R153). -/
def alarmHasFault (w : Word16) : Bool := w &&& faultMask != 0

/-- The mode bit is clear (R154). -/
def alarmIsRemote (w : Word16) : Bool := !w.getLsbD 15

/-- The producer-side invariant of an alarm word; nothing in the block enforces it (R155). -/
def aggregateBitRight (w : Word16) : Bool := w.getLsbD 12 == (w &&& specificMask != 0)

/-- The code of an exception (R331). -/
def ExcKind.code : ExcKind → Nat
  | .truncated => 1
  | .badHeader => 2
  | .unknownCommand => 3
  | .checksumMismatch => 4
  | .idOutOfRange => 5
  | .timeout => 6
  | .setNotConfirmed => 7
  | .transportFault => 8

/-- The number of an event (R343). -/
def OutEvent.number : OutEvent → Nat
  | .read _ _ _ => 1
  | .ack _ _ => 2
  | .decodeErr _ _ => 3
  | .timeout _ _ => 4
  | .setWarning _ _ => 5
  | .setResult _ _ _ => 6
  | .scanDone _ => 7
  | .xfault _ => 8
  | .txn _ _ _ _ _ _ _ => 9
  | .pollStopped => 10
  | .sReq _ _ _ => 11
  | .sStopped _ => 12

end Sys2Proof.Machine
end

