-- ==== Sys2Proof/Machine/Ops.lean ====
section
/-! DEFINITION. The named operations over the state that every unit shares: publishing an event, returning a value,
raising an exception (60_exceptions.md R330), the RPM map (10_state.md R20), the transport lock and the
transaction (42_master_rx_and_lock.md R168, R173), one slave unit's registers, free values. -/

namespace Sys2Proof.Machine

/-- What a step answers. -/
abbrev Result := Host.Outcome State Fault Refusal

/-- Go on from a next state; a fault or a refusal stays what it is. -/
def andThen (r : Result) (f : State → Result) : Result :=
  match r with
  | .next s => f s
  | .fault e => .fault e
  | .refused e => .refused e

/-! ## Outputs -/

/-- `emit EV(...)`: append an event to EVOUT (R11). -/
def emit (e : OutEvent) (s : State) : State := { s with evOut := s.evOut ++ [e] }

/-- Return a value to the host in this step (R10). -/
def returnToHost (r : HostResult) (s : State) : State := { s with retOut := s.retOut ++ [r] }

/-- A host operation whose precondition fails has no step (R11, R105). -/
def notAccepted (mnemonic : String) : Result := .refused (.notAccepted mnemonic)

/-! ## Exceptions -/

/-- An exception with what it records (R331). -/
inductive Exc where
  | decode (unit : EvUnit) (kind : ExcKind)
  | timeout (unit : EvUnit) (id : Byte)
  | setNotConfirmed (id : BitVec 7) (rpm : Word16)
  | transportFault (port : XPort)
  deriving DecidableEq, Repr

/-- The event R343 assigns to an exception (R332 to R339). -/
def Exc.event : Exc → OutEvent
  | .decode unit kind => .decodeErr unit kind
  | .timeout unit id => .timeout unit id
  | .setNotConfirmed id rpm => .setWarning id rpm
  | .transportFault port => .xfault port

/-- `raise E(info)`: publish E's event. Nothing is saved, no mode changes, and the raising rule continues in the
same step with the state change it spells out (R330); there is nothing to return from (R344). -/
def raise (e : Exc) (s : State) : State := emit e.event s

/-! ## The RPM map -/

/-- `x[id]`, for `1 <= id <= 64` (R11, R20). -/
def readMap (s : State) (id : Nat) : Word16 := s.rpmMap.toList.getD (id - 1) 0

/-- `if 1 <= id <= 64 : x[id] <- v` (R167). -/
def writeMap (id : Nat) (v : Word16) (s : State) : State :=
  if h : idMin ≤ id ∧ id ≤ idMax then
    { s with rpmMap := s.rpmMap.set (id - 1) v (by have := h.2; simp only [idMax] at this; omega) }
  else s

/-! ## The master units' state registers -/

/-- `U.state <- U.TX` (R168). -/
def enterTransmit (u : MasterUnit) (s : State) : State :=
  match u with
  | .poll => { s with poll := { s.poll with state := .transmitting } }
  | .sc => { s with sc := { s.sc with state := .transmit } }
  | .scan => { s with scan := { s.scan with state := .transmit } }

/-- U is in its transmit state. -/
def inTransmit (s : State) : MasterUnit → Bool
  | .poll => decide (s.poll.state = .transmitting)
  | .sc => decide (s.sc.state = .transmit)
  | .scan => decide (s.scan.state = .transmit)

/-- U is in its await state. -/
def inAwait (s : State) : MasterUnit → Bool
  | .poll => decide (s.poll.state = .awaitingResponse)
  | .sc => decide (s.sc.state = .await)
  | .scan => decide (s.scan.state = .await)

/-- U's timer register. -/
def unitTimer (s : State) : MasterUnit → Word16
  | .poll => s.poll.timer
  | .sc => s.sc.timer
  | .scan => s.scan.timer

/-- `U.T`, the duration of U's await window (R162). -/
def windowOf (s : State) : MasterUnit → Word16
  | .poll => s.params.pollReadTimeout
  | .sc => s.sc.timeout
  | .scan => s.scan.readTimeout

/-- The lock owner, while it is in its await state (R29). -/
def awaiting (s : State) : Option MasterUnit :=
  match s.lock with
  | .free => none
  | .held u => if inAwait s u then some u else none

/-- `rx_open` (R29). -/
def rxOpen (s : State) : Bool := (awaiting s).isSome

/-! ## The transaction -/

/-- `begin_txn(U, f)` (R168): take the lock, record and queue the request, enter U.TX. -/
def beginTxn (u : MasterUnit) (f : List Byte) (s : State) : State :=
  enterTransmit u { s with lock := .held u, txn := { s.txn with req := f }, mTxq := f }

/-- `end_txn(U, rsp, timeout, error)` (R173): publish the log row, empty both buffers, free the lock. -/
def endTxn (u : MasterUnit) (rsp : List Byte) (timeout error : Bool) (s : State) : State :=
  { emit (.txn u (byteAt s.txn.req 2) s.txn.req rsp s.txn.elapsed timeout error) s with
    mAcc := [], mTxq := [], lock := .free }

/-! ## Slave units -/

/-- Write back the registers of the slave unit on port `p`. -/
def setSlave (p : Nat) (u : Slave) (s : State) : State := { s with slaves := s.slaves.set p u }

/-- Act on the slave unit on port `p`; a port the instance does not have has no unit (R293). -/
def withSlave (p : Nat) (s : State) (f : Slave → Result) : Result :=
  match s.slaves[p]? with
  | none => .fault (.noSuchPort p)
  | some u => f u

/-! ## Free values -/

/-- Count one use of a free value. -/
def countFree (s : State) : State := { s with freeCount := s.freeCount + 1 }

/-- The next processing delay (R288): the one the environment draws, SLAVE_DRAW(d), or a free value; kept within
SLAVE_DELAY_MIN..SLAVE_DELAY_MAX. -/
def drawDelay (s : State) : Word16 :=
  match s.draws with
  | d :: _ => clampDelay s.params d
  | [] => clampDelay s.params (Config.slaveDraw s.freeCount)

/-- The state after a draw. -/
def afterDraw (s : State) : State :=
  match s.draws with
  | _ :: t => { s with draws := t }
  | [] => countFree s

end Sys2Proof.Machine
end

