-- ==== Sys2Proof/Machine/AlarmDecoder.lean ====
section
/-! DEFINITION. AlarmDecoder (41_alarmdecoder.md): ALARM_DECODE, ALARM_DESCRIBE, ALARM_HASFAULT, ALARM_ISREMOTE. -/

namespace Sys2Proof.Machine

/-- ALARM_DECODE (R151): every bit pattern is legal. -/
def execAlarmDecode (word : Word16) (s : State) : Result :=
  .next (returnToHost (.alarmFlags (alarmFlagsOf word)) s)

/-- ALARM_DESCRIBE (R152). -/
def execAlarmDescribe (flags : Word16) (s : State) : Result :=
  .next (returnToHost (.conditions (describeAlarm flags)) s)

/-- ALARM_HASFAULT (R153). -/
def execAlarmHasFault (flags : Word16) (s : State) : Result :=
  .next (returnToHost (.bit (alarmHasFault flags)) s)

/-- ALARM_ISREMOTE (R154). -/
def execAlarmIsRemote (flags : Word16) (s : State) : Result :=
  .next (returnToHost (.bit (alarmIsRemote flags)) s)

end Sys2Proof.Machine
end

