-- ==== Sys2Proof/Machine/FrameCodec.lean ====
section
/-! DEFINITION. FrameCodec (40_framecodec.md): the frame builders, the two decoders' validation, and the meanings
of ENCODE_REQUEST, DECODE_RESPONSE, ENCODE_TARGETACK and ENCODE_READRSP. -/

namespace Sys2Proof.Machine

/-- A frame without its checksum byte, completed by it (R99). -/
def withChecksum (p : List Byte) : List Byte := p ++ [sum8 p]

/-- ENCODE_REQUEST's frame (R122): the id clamped to 1..64, nothing else checked. -/
def requestFrame (id command data1 data2 : Byte) : List Byte :=
  withChecksum [reqMagic0, reqMagic1, clampId id, command, data1, data2]

/-- `readRequest(id)` (R123). -/
def readRequest (id : Byte) : List Byte := requestFrame id cmdRead 0 0

/-- `setRequest(id, rpm)` (R123): the RPM high byte first (R63). -/
def setRequest (id : Byte) (rpm : Word16) : List Byte := requestFrame id cmdSet (hi8 rpm) (lo8 rpm)

/-- ENCODE_TARGETACK's frame (R124): nothing clamped. -/
def targetAckFrame (id : Byte) (rpm : Word16) : List Byte :=
  withChecksum [rspMagic0, rspMagic1, id, cmdTargetAck, hi8 rpm, lo8 rpm]

/-- ENCODE_READRSP's frame (R125): RPM high byte first, alarm word low byte first (R63, R64). -/
def readRspFrame (id : Byte) (rpm alarm : Word16) : List Byte :=
  withChecksum [rspMagic0, rspMagic1, id, cmdRead, hi8 rpm, lo8 rpm, lo8 alarm, hi8 alarm]

/-- DECODE_RESPONSE's result (R127), the tests in the order of its pseudocode. -/
def decodeResponse (buffer : List Byte) (n : Nat) : Except DecodeError ParsedResponse :=
  if n < 2 then .error .truncated
  else if byteAt buffer 0 ≠ rspMagic0 ∨ byteAt buffer 1 ≠ rspMagic1 then .error .badHeader
  else if n < 4 then .error .truncated
  else
    match responseLength (byteAt buffer 3) with
    | none => .error .unknownCommand
    | some len =>
      if n < len then .error .truncated
      else if byteAt buffer (len - 1) ≠ sum8 (buffer.take (len - 1)) then .error .checksumMismatch
      else if byteAt buffer 3 = cmdTargetAck then
        .ok (.ack (byteAt buffer 2) (join16 (byteAt buffer 4) (byteAt buffer 5)))
      else
        .ok (.readRsp (byteAt buffer 2) (join16 (byteAt buffer 4) (byteAt buffer 5))
          (join16 (byteAt buffer 7) (byteAt buffer 6)))

/-- `decodeRequest(f)` of a 7-byte window that begins with the request magic (R128): checksum, then id range, then
Command. -/
def decodeRequest (f : List Byte) : Except ExcKind ParsedRequest :=
  if byteAt f 6 ≠ sum8 (f.take 6) then .error .checksumMismatch
  else if idInRange (byteAt f 2) = false then .error .idOutOfRange
  else if byteAt f 3 = cmdSet then .ok (.set (byteAt f 2) (join16 (byteAt f 4) (byteAt f 5)))
  else if byteAt f 3 = cmdRead then .ok (.read (byteAt f 2))
  else .error .unknownCommand

/-- A DecodeError as the exception of the same name (R331). -/
def DecodeError.kind : DecodeError → ExcKind
  | .truncated => .truncated
  | .badHeader => .badHeader
  | .unknownCommand => .unknownCommand
  | .checksumMismatch => .checksumMismatch

/-- The value DECODE_RESPONSE returns to the host (R104). -/
def decodeResult (r : Except DecodeError ParsedResponse) : HostResult :=
  match r with
  | .ok p => .parsed p
  | .error e => .decodeError e

/-- The buffer as far as a response can reach, with a free byte for each offset that `availableLen` declares valid
and the buffer does not hold (notes/assumptions/9.md). -/
def padBuffer (buffer : List Byte) (availableLen useNo : Nat) : List Byte :=
  buffer ++ ((List.range (min availableLen readRspLen)).drop buffer.length).map (Config.byteBeyondBuffer useNo)

/-- ENCODE_REQUEST (R122). -/
def execEncodeRequest (id command data1 data2 : Byte) (s : State) : Result :=
  .next (returnToHost (.frame (requestFrame id command data1 data2)) s)

/-- DECODE_RESPONSE (R127). Where `availableLen` passes the end of the buffer the spec gives no result: the bytes
beyond it are free values. -/
def execDecodeResponse (buffer : List Byte) (availableLen : Nat) (s : State) : Result :=
  if availableLen ≤ buffer.length then
    .next (returnToHost (decodeResult (decodeResponse buffer availableLen)) s)
  else
    .next (countFree (returnToHost
      (decodeResult (decodeResponse (padBuffer buffer availableLen s.freeCount) availableLen)) s))

/-- ENCODE_TARGETACK (R124). -/
def execEncodeTargetAck (id : Byte) (rpm : Word16) (s : State) : Result :=
  .next (returnToHost (.frame (targetAckFrame id rpm)) s)

/-- ENCODE_READRSP (R125). -/
def execEncodeReadRsp (id : Byte) (rpm alarm : Word16) (s : State) : Result :=
  .next (returnToHost (.frame (readRspFrame id rpm alarm)) s)

end Sys2Proof.Machine
end

