-- ==== Sys2Proof/Machine/ConfigOps.lean ====
section
/-! DEFINITION. The configuration and access operations (47_config_ops.md): QUEUE_SET, SET_MAXRPM, LOAD_IDSET,
SET_ALARM, LOAD_RPM, READ_RPM, SLAVE_START, SLAVE_STOP. -/

namespace Sys2Proof.Machine

/-- QUEUE_SET (R313). -/
def execQueueSet (id : Byte) (rpm : Word16) (s : State) : Result :=
  .next { s with pend := { valid := true, id := idRegister (clampId id), rpm := limitRpm rpm s.maxRpm } }

/-- SET_MAXRPM (R310). -/
def execSetMaxRpm (value : Word16) (s : State) : Result := .next { s with maxRpm := limitMaxRpm value }

/-- LOAD_IDSET (R312). -/
def execLoadIdSet (set : IdMask) (s : State) : Result := .next { s with idSet := set }

/-- SET_ALARM (R314). -/
def execSetAlarm (word : Word16) (s : State) : Result := .next { s with sAlarm := word }

/-- LOAD_RPM (R315). -/
def execLoadRpm (id : Byte) (rpm : Word16) (s : State) : Result :=
  if idInRange id then .next (writeMap id.toNat rpm s) else notAccepted "LOAD_RPM"

/-- READ_RPM (R316). -/
def execReadRpm (id : Byte) (s : State) : Result :=
  if idInRange id then .next (returnToHost (.rpm (readMap s id.toNat)) s) else notAccepted "READ_RPM"

/-- SLAVE_START (R317). -/
def execSlaveStart (port : Nat) (s : State) : Result :=
  withSlave port s fun u =>
    if u.state = .stopped then
      .next (setSlave port { u with acc := [], txq := [], cancelReq := false, state := .seeking } s)
    else notAccepted "SLAVE_START"

/-- `stop_slave()` (R318). -/
def stopSlave (p : Nat) (u : Slave) (s : State) : State :=
  emit (.sStopped p)
    (setSlave p { u with acc := [], txq := [], timer := 0, cancelReq := false, state := .stopped } s)

/-- SLAVE_STOP (R318). `validating` is never the state between steps (R285): nothing is written then. -/
def execSlaveStop (port : Nat) (s : State) : Result :=
  withSlave port s fun u =>
    match u.state with
    | .stopped => .next s
    | .validating => .next s
    | .seeking | .collecting | .paused => .next (stopSlave port u s)
    | .dispatching =>
      match u.phase with
      | .delay => .next (stopSlave port u s)
      | .send => .next (setSlave port { u with cancelReq := true } s)

end Sys2Proof.Machine
end

