-- ==== Sys2Proof/Machine/Discovery.lean ====
section
/-! DEFINITION. SlaveIdDiscovery, the SCAN unit (43_discovery.md): SCAN, its grant, verdicts, failed attempts, the
timed states and completion. -/

namespace Sys2Proof.Machine

/-- `finish_scan()` (R198). -/
def finishScan (s : State) : State :=
  let s := emit (.scanDone s.scan.result) { s with idSet := s.scan.result }
  { s with scan := { s.scan with state := .idle } }

/-- SCAN (R190): the range is clipped to 1..64, not clamped onto it. -/
def execScan (start stop retries : Byte) (interDelay readTimeout : Word16) (s : State) : Result :=
  if s.scan.state = .idle then
    let lo := max start.toNat idMin
    let hi := min stop.toNat idMax
    let s := { s with scan := { s.scan with
      result := 0, retries := retries, interDelay := interDelay, readTimeout := readTimeout } }
    if hi < lo then .next (finishScan s)
    else
      .next { s with scan := { s.scan with
        cur := BitVec.ofNat 7 lo, hi := BitVec.ofNat 7 hi, left := attempts retries, state := .lockWait } }
  else notAccepted "SCAN"

/-- The probe of the current id (R192). -/
def scanRequest (s : State) : List Byte := readRequest (idByte s.scan.cur)

/-- `GRANT(SCAN)` (R192). -/
def scanGrant (s : State) : State := beginTxn .scan (scanRequest s) s

/-- Leave SCAN_INTERDELAY for the next id (R196). -/
def leaveInterDelay (s : State) : State :=
  { s with scan := { s.scan with
    cur := s.scan.cur + 1, left := attempts s.scan.retries, state := .lockWait } }

/-- `next_id()` (R196). -/
def nextId (s : State) : State :=
  if s.scan.cur = s.scan.hi then finishScan s
  else
    let s := { s with scan := { s.scan with state := .interDelay, timer := s.scan.interDelay } }
    if s.scan.interDelay = 0 then leaveInterDelay s else s

/-- The probe is accepted: a Read response with the probed id (R193). -/
def scanAccepts (s : State) (p : ParsedResponse) : Bool :=
  match p with
  | .ack _ _ => false
  | .readRsp id _ _ => decide (id = idByte s.scan.cur)

/-- Record the probed id as present (R194). -/
def scanRecord (s : State) : State :=
  { s with scan := { s.scan with result := addMember s.scan.result s.scan.cur.toNat } }

/-- The attempt has failed: from the line `SCAN.left <- SCAN.left - 1` on (R195, R197). -/
def scanAttemptFailed (s : State) : State :=
  let s := { s with scan := { s.scan with left := s.scan.left - 1 } }
  if s.scan.left = 0 then nextId s
  else if s.params.scanRetrySleep = 0 then
    { s with scan := { s.scan with state := .lockWait, timer := s.params.scanRetrySleep } }
  else
    { s with scan := { s.scan with state := .retrySleep, timer := s.params.scanRetrySleep } }

/-- `TICK` in SCAN_RETRYSLEEP (R196). -/
def scanRetrySleepTick (s : State) : State :=
  let timer := s.scan.timer - 1
  { s with scan := { s.scan with timer := timer, state := if timer = 0 then .lockWait else .retrySleep } }

/-- `TICK` in SCAN_INTERDELAY (R196). -/
def scanInterDelayTick (s : State) : State :=
  let s := { s with scan := { s.scan with timer := s.scan.timer - 1 } }
  if s.scan.timer = 0 then leaveInterDelay s else s

end Sys2Proof.Machine
end

