-- ==== Sys2Proof/Machine/Polling.lean ====
section
/-! DEFINITION. PollingScheduler, the POLL unit, and the timing estimator (45_polling.md): POLL_START, POLL_CANCEL,
selection, the delay, ESTIMATE. -/

namespace Sys2Proof.Machine

/-- POLL_START (R240). -/
def execPollStart (s : State) : Result :=
  if s.poll.state = .cancelled then
    .next { s with poll := { s.poll with cancelReq := false, state := .idle } }
  else notAccepted "POLL_START"

/-- POLL_CANCEL (R241). `parsing` is never the state between steps (R247): nothing is written then. -/
def execPollCancel (s : State) : Result :=
  match s.poll.state with
  | .cancelled => .next s
  | .parsing => .next s
  | .idle | .sleeping =>
    .next (emit .pollStopped
      { s with poll := { s.poll with cancelReq := false, timer := 0, state := .cancelled } })
  | .transmitting | .awaitingResponse => .next { s with poll := { s.poll with cancelReq := true } }

/-- `build_frame(id)`: the pending Set, or a Read to `id` (R244). -/
def pollFrame (id : Nat) (s : State) : List Byte :=
  if s.pend.valid then setRequest (idByte s.pend.id) s.pend.rpm else readRequest (BitVec.ofNat 8 id)

/-- The pending Set is consumed by the frame that carries it (R244). -/
def consumePending (s : State) : State := { s with pend := { s.pend with valid := false } }

/-- The index of the id a selection picks: `POLL.cursor mod n` (R243). -/
def pollIndex (s : State) : Nat := s.poll.cursor.toNat % setSize s.idSet

/-- `GRANT(POLL)` (R243). -/
def pollGrant (s : State) : State :=
  let f := pollFrame (nth s.idSet (pollIndex s)) s
  let cursor := BitVec.ofNat 6 ((pollIndex s + 1) % setSize s.idSet)
  beginTxn .poll f
    { consumePending s with poll := { s.poll with cursor := cursor, curId := idRegister (byteAt f 2) } }

/-- `enter_sleep(d)` (R249). -/
def enterSleep (d : Word16) (s : State) : State :=
  if s.poll.cancelReq then
    emit .pollStopped { s with poll := { s.poll with cancelReq := false, state := .cancelled } }
  else
    { s with poll := { s.poll with timer := d, state := if d = 0 then .idle else .sleeping } }

/-- `POLL_SKIP` (R245). -/
def pollSkip (s : State) : State := enterSleep s.params.pollDelay s

/-- `TICK` in Sleeping (R249). -/
def pollSleepTick (s : State) : State :=
  let timer := s.poll.timer - 1
  { s with poll := { s.poll with timer := timer, state := if timer = 0 then .idle else .sleeping } }

/-- A fraction in lowest terms. -/
def reduceFraction (num den : Nat) : Fraction := ⟨num / num.gcd den, den / num.gcd den⟩

/-- `((frameBytes * 2 * (10000 / baud)) + perSlaveProcessingMs) * slaveCount`, exactly, over the common denominator
`baud * den` (R255). -/
def estimateMs (baud slaveCount frameBytes : Nat) (p : Fraction) : Fraction :=
  reduceFraction ((frameBytes * 2 * 10000 * p.den + p.num * baud) * slaveCount) (baud * p.den)

/-- ESTIMATE (R255): reads no state (R253); `baud = 0` is not accepted, nor is an operand that is no rational. -/
def execEstimate (baud slaveCount frameBytes : Nat) (p : Fraction) (s : State) : Result :=
  if baud = 0 ∨ p.den = 0 then notAccepted "ESTIMATE"
  else .next (returnToHost (.millis (estimateMs baud slaveCount frameBytes p)) s)

end Sys2Proof.Machine
end

