-- ==== Sys2Proof/Machine/SetConfirm.lean ====
section
/-! DEFINITION. SetConfirmProtocol, the SC unit (44_setconfirm.md): TRYSET, its grant, verdicts, failed attempts and
backoff. -/

namespace Sys2Proof.Machine

/-- TRYSET (R211). -/
def execTrySet (id : Byte) (rpm : Word16) (retries : Byte) (timeoutMs backoffMs : Word16) (s : State) : Result :=
  if s.sc.state = .idle then
    .next { s with
      sc := { s.sc with
        id := idRegister (clampId id)
        rpm := limitRpm rpm s.maxRpm
        left := attempts retries
        sent := 0
        timeout := timeoutMs
        backoff := backoffMs
        state := .lockWait } }
  else notAccepted "TRYSET"

/-- The request SC transmits at every attempt (R213). -/
def scRequest (s : State) : List Byte := setRequest (idByte s.sc.id) s.sc.rpm

/-- `GRANT(SC)` (R213). -/
def scGrant (s : State) : State :=
  beginTxn .sc (scRequest s) { s with sc := { s.sc with sent := s.sc.sent + 1 } }

/-- `matches(p)`: the TargetAck that echoes the id and the RPM as transmitted (R212). -/
def scMatches (s : State) (p : ParsedResponse) : Bool :=
  match p with
  | .ack id rpm => decide (id = idByte s.sc.id) && decide (rpm = s.sc.rpm)
  | .readRsp _ _ _ => false

/-- The attempt has failed: from the line `SC.left <- SC.left - 1` on (R216, R218). -/
def scAttemptFailed (s : State) : State :=
  let left := s.sc.left - 1
  if left = 0 then
    let s := raise (.setNotConfirmed s.sc.id s.sc.rpm) { s with sc := { s.sc with left := left } }
    let s := emit (.setResult s.sc.id s.sc.rpm false) s
    { s with sc := { s.sc with state := .idle } }
  else if s.sc.backoff = 0 then
    { s with sc := { s.sc with left := left, state := .lockWait, timer := s.sc.backoff } }
  else
    { s with sc := { s.sc with left := left, state := .backoff, timer := s.sc.backoff } }

/-- `TICK` in SC_BACKOFF (R217). -/
def scBackoffTick (s : State) : State :=
  let timer := s.sc.timer - 1
  { s with sc := { s.sc with timer := timer, state := if timer = 0 then .lockWait else .backoff } }

end Sys2Proof.Machine
end

