-- ==== Sys2Proof/Machine/MasterTransport.lean ====
section
/-! DEFINITION. The master's transmit path, receive reassembler and lock (42_master_rx_and_lock.md), and what each
master unit does with a verdict, a deadline, a fault and a tick. RSP.ACK and RSP.READ are the frames it receives. -/

namespace Sys2Proof.Machine

/-- `dispatch(p)` (R167): file the RPM under its id where the map has one, and publish the response. -/
def dispatchResponse (p : ParsedResponse) (s : State) : State :=
  match p with
  | .ack id rpm => emit (.ack id rpm) (writeMap id.toNat rpm s)
  | .readRsp id rpm alarm => emit (.read id rpm alarm) (writeMap id.toNat rpm s)

/-- A verdict delivered to POLL: the first one closes the attempt (R247). `Parsing` is entered and left here. -/
def pollVerdict (v : Verdict) (s : State) : State :=
  let s := { s with poll := { s.poll with state := .parsing } }
  let s :=
    match v with
    | .ok p w => endTxn .poll w false false (dispatchResponse p s)
    | .bad e w => endTxn .poll w false true (raise (.decode (.master .poll) e) s)
  enterSleep s.params.pollDelay s

/-- A verdict delivered to SC (R215): only the matching TargetAck closes the attempt. -/
def scVerdict (v : Verdict) (s : State) : State :=
  match v with
  | .ok p w =>
    let s := dispatchResponse p s
    if scMatches s p then
      let s := emit (.setResult s.sc.id s.sc.rpm true) (endTxn .sc w false false s)
      { s with sc := { s.sc with state := .idle } }
    else s
  | .bad e _ => raise (.decode (.master .sc) e) s

/-- A verdict delivered to SCAN (R194): only the probed id's Read response closes the attempt. -/
def scanVerdict (v : Verdict) (s : State) : State :=
  match v with
  | .ok p w =>
    let s := dispatchResponse p s
    if scanAccepts s p then nextId (endTxn .scan w false false (scanRecord s)) else s
  | .bad e _ => raise (.decode (.master .scan) e) s

/-- Deliver a verdict to the lock owner (R165); with no await window open the bytes are dropped (R161). -/
def deliver (v : Verdict) (s : State) : State :=
  match awaiting s with
  | none => s
  | some .poll => pollVerdict v s
  | some .sc => scVerdict v s
  | some .scan => scanVerdict v s

/-- The verdict on a consumed window whose Command is a response command (R164). -/
def judgeResponse (w : List Byte) : Verdict :=
  match decodeResponse w w.length with
  | .ok p => .ok p w
  | .error e => .bad e.kind w

/-- RSP.ACK as the master receives it (R164, R167): the reassembler's window is judged and delivered. -/
def execRspAck (id : Byte) (rpm : Word16) (checksum : Byte) (s : State) : Result :=
  .next (deliver (judgeResponse (encode (.rspAck id rpm checksum))) s)

/-- RSP.READ as the master receives it (R164, R167): the reassembler's window is judged and delivered. -/
def execRspRead (id : Byte) (rpm alarm : Word16) (checksum : Byte) (s : State) : Result :=
  .next (deliver (judgeResponse (encode (.rspRead id rpm alarm checksum))) s)

/-- How unit U goes on when its attempt ends at the deadline (R195, R216, R248). -/
def deadlineTail (u : MasterUnit) (s : State) : State :=
  match u with
  | .poll => enterSleep s.params.pollDelay (endTxn .poll [] true false s)
  | .sc => scAttemptFailed (endTxn .sc [] true false s)
  | .scan => scanAttemptFailed (endTxn .scan [] true false s)

/-- Taking the deadline of U (R166): Truncated if bytes are pending, Timeout, then U's own rule. -/
def deadline (u : MasterUnit) (s : State) : State :=
  let s := if s.mAcc = [] then s else raise (.decode (.master u) .truncated) s
  deadlineTail u (raise (.timeout (.master u) (byteAt s.txn.req 2)) s)

/-- `U.state <- U.AWAIT; wait(U.timer, U.T)` (R162). -/
def enterAwait (u : MasterUnit) (s : State) : State :=
  match u with
  | .poll => { s with poll := { s.poll with state := .awaitingResponse, timer := windowOf s .poll } }
  | .sc => { s with sc := { s.sc with state := .await, timer := windowOf s .sc } }
  | .scan => { s with scan := { s.scan with state := .await, timer := windowOf s .scan } }

/-- The await window opens (R162); one of duration 0 closes in the same step. -/
def openWindow (u : MasterUnit) (s : State) : State :=
  let s := enterAwait u { s with mAcc := [], txn := { s.txn with elapsed := 0 } }
  if unitTimer s u = 0 then deadline u s else s

/-- `M_TXBYTE` (R160). -/
def masterTxByte (s : State) : State :=
  match s.mTxq with
  | [] => s
  | b :: t =>
    let s := { s with mTxOut := s.mTxOut ++ [b], mTxq := t }
    match t, s.lock with
    | [], .held u => openWindow u s
    | _, _ => s

/-- `M_XFAULT` (R174) and the owner's own continuation (R197, R218, R250). -/
def masterFault (s : State) : State :=
  match s.lock with
  | .free => s
  | .held u =>
    let s := endTxn u [] false true (raise (.transportFault .m) s)
    match u with
    | .poll => enterSleep s.params.faultPause s
    | .sc => scAttemptFailed s
    | .scan => scanAttemptFailed s

/-- POLL's part of a `TICK` (R166, R249, R341). -/
def pollTick (s : State) : State :=
  match s.poll.state with
  | .awaitingResponse =>
    let s := { s with poll := { s.poll with timer := s.poll.timer - 1 } }
    if s.poll.timer = 0 then deadline .poll s else s
  | .sleeping => pollSleepTick s
  | .idle | .transmitting | .parsing | .cancelled => s

/-- SC's part of a `TICK` (R166, R217, R341). -/
def scTick (s : State) : State :=
  match s.sc.state with
  | .await =>
    let s := { s with sc := { s.sc with timer := s.sc.timer - 1 } }
    if s.sc.timer = 0 then deadline .sc s else s
  | .backoff => scBackoffTick s
  | .idle | .lockWait | .transmit => s

/-- SCAN's part of a `TICK` (R166, R196, R341). -/
def scanTick (s : State) : State :=
  match s.scan.state with
  | .await =>
    let s := { s with scan := { s.scan with timer := s.scan.timer - 1 } }
    if s.scan.timer = 0 then deadline .scan s else s
  | .retrySleep => scanRetrySleepTick s
  | .interDelay => scanInterDelayTick s
  | .idle | .lockWait | .transmit => s

/-- `TXN.elapsed` counts the ticks of an open window (R166). -/
def countElapsed (s : State) : State :=
  if rxOpen s then { s with txn := { s.txn with elapsed := saturatingSucc s.txn.elapsed } } else s

/-- The master units' part of a `TICK` (R341). -/
def masterTick (s : State) : State := scanTick (scTick (pollTick (countElapsed s)))

/-- The unit waits for the lock (R170). -/
def waitsForLock (s : State) : MasterUnit → Bool
  | .poll => decide (s.poll.state = .idle) && decide (1 ≤ setSize s.idSet)
  | .sc => decide (s.sc.state = .lockWait)
  | .scan => decide (s.scan.state = .lockWait)

/-- `GRANT(U)` is enabled (R171). -/
def grantEnabled (s : State) (u : MasterUnit) : Bool := decide (s.lock = .free) && waitsForLock s u

/-- `POLL_SKIP` is enabled (R245). -/
def skipEnabled (s : State) : Bool := decide (s.poll.state = .idle) && decide (setSize s.idSet = 0)

/-- U's start-of-transaction rule (R171). -/
def grant (u : MasterUnit) (s : State) : State :=
  match u with
  | .poll => pollGrant s
  | .sc => scGrant s
  | .scan => scanGrant s

end Sys2Proof.Machine
end

