-- ==== Sys2Proof/Machine/SlaveAssembler.lean ====
section
/-! DEFINITION. SlaveFrameAssembler, the SLV unit (46_slave_assembler.md): validation and dispatch of a request
window; REQ.READ and REQ.SET are the frames it receives. SLAVE_START and SLAVE_STOP stand in ConfigOps. -/

namespace Sys2Proof.Machine

/-- The response to a Set leaves now: `send_S(ENCODE_TARGETACK(SLV.id, SLV.rpm)); SLV.phase <- SEND` (R288). -/
def sendTargetAck (u : Slave) : Slave := { u with txq := targetAckFrame u.id u.rpm, phase := .send }

/-- `dispatch_set(id, rpm)` on port `p` (R287, R288): the map is written at once, the RPM as received; then the
drawn delay, or the acknowledgment at once where the draw is 0. -/
def dispatchSet (p : Nat) (u : Slave) (id : Byte) (rpm : Word16) (s : State) : State :=
  let u := { u with state := .dispatching, id := id, cmd := cmdSet, rpm := rpm }
  let s := emit (.sReq id cmdSet rpm) (writeMap id.toNat rpm s)
  let d := drawDelay s
  let s := afterDraw s
  if d = 0 then setSlave p (sendTargetAck u) s
  else setSlave p { u with phase := .delay, timer := d } s

/-- `dispatch_read(id)` on port `p` (R289): the answer carries the cached RPM and S_ALARM, with no delay. -/
def dispatchRead (p : Nat) (u : Slave) (id : Byte) (s : State) : State :=
  let u := { u with
    state := .dispatching, id := id, cmd := cmdRead
    txq := readRspFrame id (readMap s id.toNat) s.sAlarm, phase := .send }
  setSlave p u (emit (.sReq id cmdRead 0) s)

/-- The window is dropped: the exception is raised and seeking resumes (R285, R286). -/
def rejectWindow (p : Nat) (u : Slave) (e : ExcKind) (s : State) : State :=
  setSlave p { u with state := .seeking } (raise (.decode .slv e) s)

/-- `validate_and_dispatch(f)` on port `p`, the window already taken from S_ACC (R285). -/
def validateAndDispatch (p : Nat) (u : Slave) (f : List Byte) (s : State) : State :=
  match decodeRequest f with
  | .error e => rejectWindow p u e s
  | .ok (.set id rpm) => dispatchSet p u id rpm s
  | .ok (.read id) => dispatchRead p u id s

/-- REQ.READ as the slave unit on the active port validates it (R285, R289). -/
def execReqRead (id data1 data2 checksum : Byte) (s : State) : Result :=
  withSlave s.activePort s fun u =>
    .next (validateAndDispatch s.activePort u (encode (.reqRead id data1 data2 checksum)) s)

/-- REQ.SET as the slave unit on the active port validates it (R285, R287, R288). -/
def execReqSet (id : Byte) (rpm : Word16) (checksum : Byte) (s : State) : Result :=
  withSlave s.activePort s fun u =>
    .next (validateAndDispatch s.activePort u (encode (.reqSet id rpm checksum)) s)

end Sys2Proof.Machine
end

