-- ==== Sys2Proof/Machine/Dispatch.lean ====
section
/-! DEFINITION. What each instruction means: one arm per row of the opcode table, each one call of its meaning. -/

namespace Sys2Proof.Machine

/-- The meaning of an instruction. -/
def exec (i : Instr) (s : State) : Host.Outcome State Fault Refusal :=
  match i with
  | .reqRead id data1 data2 checksum => Sys2Proof.Machine.execReqRead id data1 data2 checksum s
  | .reqSet id rpm checksum => Sys2Proof.Machine.execReqSet id rpm checksum s
  | .rspAck id rpm checksum => Sys2Proof.Machine.execRspAck id rpm checksum s
  | .rspRead id rpm alarm checksum => Sys2Proof.Machine.execRspRead id rpm alarm checksum s
  | .encodeRequest id command data1 data2 => Sys2Proof.Machine.execEncodeRequest id command data1 data2 s
  | .decodeResponse buffer availableLen => Sys2Proof.Machine.execDecodeResponse buffer availableLen s
  | .encodeTargetAck id rpm => Sys2Proof.Machine.execEncodeTargetAck id rpm s
  | .encodeReadRsp id rpm alarm => Sys2Proof.Machine.execEncodeReadRsp id rpm alarm s
  | .alarmDecode word => Sys2Proof.Machine.execAlarmDecode word s
  | .alarmDescribe flags => Sys2Proof.Machine.execAlarmDescribe flags s
  | .alarmHasFault flags => Sys2Proof.Machine.execAlarmHasFault flags s
  | .alarmIsRemote flags => Sys2Proof.Machine.execAlarmIsRemote flags s
  | .scan start stop retries interDelay readTimeout => Sys2Proof.Machine.execScan start stop retries interDelay readTimeout s
  | .trySet id rpm retries timeoutMs backoffMs => Sys2Proof.Machine.execTrySet id rpm retries timeoutMs backoffMs s
  | .pollStart => Sys2Proof.Machine.execPollStart s
  | .pollCancel => Sys2Proof.Machine.execPollCancel s
  | .estimate baud slaveCount frameBytes p => Sys2Proof.Machine.execEstimate baud slaveCount frameBytes p s
  | .queueSet id rpm => Sys2Proof.Machine.execQueueSet id rpm s
  | .setMaxRpm value => Sys2Proof.Machine.execSetMaxRpm value s
  | .loadIdSet set => Sys2Proof.Machine.execLoadIdSet set s
  | .setAlarm word => Sys2Proof.Machine.execSetAlarm word s
  | .loadRpm id rpm => Sys2Proof.Machine.execLoadRpm id rpm s
  | .readRpm id => Sys2Proof.Machine.execReadRpm id s
  | .slaveStart port => Sys2Proof.Machine.execSlaveStart port s
  | .slaveStop port => Sys2Proof.Machine.execSlaveStop port s

end Sys2Proof.Machine
end

