-- ==== Sys2Proof/Machine/Events.lean ====
section
/-! DEFINITION. What each event does (00_scope.md R8, R9): the receivers that find an instruction in a byte stream
and run it, the transmit ports, the tick, the faults, the host port, the internal events. -/

namespace Sys2Proof.Machine

/-! ## Master port -/

/-- The window the reassembler has consumed is the frame of an instruction: run it (R164). It begins with the
response magic, so the decoder reads it as a response (R101). -/
def runResponseWindow (w : List Byte) (s : State) : Result :=
  match decodeResponseFrame w with
  | .ok (i, _) => exec i s
  | .error _ => .next (deliver (.bad .unknownCommand w) s)

/-- `M_RX(b)` (R161, R164). -/
def masterRx (b : Byte) (s : State) : Result :=
  if rxOpen s then
    let acc := resync rspMagic0 rspMagic1 (s.mAcc ++ [b])
    if acc.length < 4 then .next { s with mAcc := acc }
    else
      match responseLength (byteAt acc 3) with
      | none => .next (deliver (.bad .unknownCommand (acc.take 4)) { s with mAcc := [] })
      | some len =>
        if acc.length < len then .next { s with mAcc := acc }
        else runResponseWindow (acc.take len) { s with mAcc := [] }
  else .next s

/-! ## Slave ports -/

/-- A request window taken from S_ACC: an instruction is run, any other window is validated and dropped (R285,
R286). It begins with the request magic, so the decoder reads it as a request (R100). -/
def runRequestWindow (p : Nat) (f : List Byte) (s : State) : Result :=
  match decodeRequestFrame f with
  | .ok (i, _) => exec i { s with activePort := p }
  | .error _ => withSlave p s fun u => .next (validateAndDispatch p u f { s with activePort := p })

/-- The unit's S_ACC and state after the seeking part of `assemble()` (R283). -/
def seek (u : Slave) : Slave :=
  if u.state = .seeking then
    let acc := resync reqMagic0 reqMagic1 u.acc
    { u with acc := acc, state := if acc.length < 2 then .seeking else .collecting }
  else u

/-- `assemble()` on port `p` (R282); `fuel` bounds the number of windows dropped, each of which is seven bytes. -/
def assembleFuel (p : Nat) : Nat → State → Result
  | 0, s => .next s
  | fuel + 1, s =>
    withSlave p s fun u =>
      let u := seek u
      if u.state = .collecting ∧ reqLen ≤ u.acc.length then
        let s := setSlave p { u with state := .validating, acc := u.acc.drop reqLen } s
        andThen (runRequestWindow p (u.acc.take reqLen) s) fun s =>
          withSlave p s fun u => if u.state = .seeking then assembleFuel p fuel s else .next s
      else .next (setSlave p u s)

/-- `assemble()` on port `p` (R282). -/
def assemble (p : Nat) (s : State) : Result :=
  withSlave p s fun u => assembleFuel p (u.acc.length + 1) s

/-- Seeking resumes on the bytes buffered meanwhile: `SLV.state <- Seeking; assemble()` (R290, R291). -/
def resumeSeeking (p : Nat) (u : Slave) (s : State) : Result :=
  assemble p (setSlave p { u with state := .seeking } s)

/-- S_ACC holds ACC_DEPTH bytes (R282); ACC_DEPTH is at least 7 (R6), so fewer than seven bytes never fill it. -/
def accFull (params : Params) (u : Slave) : Bool :=
  decide (reqLen ≤ u.acc.length) &&
    match params.accDepth with
    | none => false
    | some n => decide (n ≤ u.acc.length)

/-- `S_RX(b)` on port `p` (R281, R282). -/
def slaveRx (p : Nat) (b : Byte) (s : State) : Result :=
  withSlave p s fun u =>
    if u.state = .stopped then .next s
    else if accFull s.params u then .refused (.accumulatorFull p)
    else
      let s := setSlave p { u with acc := u.acc ++ [b] } s
      if u.state = .seeking ∨ u.state = .collecting then assemble p s else .next s

/-- `S_TXBYTE` on port `p` (R290). -/
def slaveTxByte (p : Nat) (s : State) : Result :=
  withSlave p s fun u =>
    match u.txq with
    | [] => .next s
    | b :: t =>
      let u := { u with txOut := u.txOut ++ [b], txq := t }
      if t = [] then
        if u.cancelReq then .next (stopSlave p u s) else resumeSeeking p u s
      else .next (setSlave p u s)

/-- `S_XFAULT` on port `p` (R291). -/
def slaveFault (p : Nat) (s : State) : Result :=
  withSlave p s fun u =>
    if u.state = .stopped then .next s
    else
      let s := raise (.transportFault .s) s
      let u := { u with txq := [], state := .paused, timer := s.params.faultPause }
      if u.timer = 0 then resumeSeeking p u s else .next (setSlave p u s)

/-- The slave unit's part of a `TICK` (R288, R291, R341). -/
def slaveTick (p : Nat) (s : State) : Result :=
  withSlave p s fun u =>
    if u.state = .dispatching ∧ u.phase = .delay then
      let u := { u with timer := u.timer - 1 }
      .next (setSlave p (if u.timer = 0 then sendTargetAck u else u) s)
    else if u.state = .paused then
      let u := { u with timer := u.timer - 1 }
      if u.timer = 0 then resumeSeeking p u s else .next (setSlave p u s)
    else .next s

/-! ## The tick -/

/-- One part of a `TICK`: part 0 is the master units', part `p + 1` the slave unit's on port `p`. -/
def tickPart (s : State) : Nat → Result
  | 0 => .next (masterTick s)
  | p + 1 => slaveTick p s

/-- The master's part can be told from another: a window reaches its deadline. -/
def masterTickShows (s : State) : Bool :=
  match awaiting s with
  | none => false
  | some u => decide (unitTimer s u = 1)

/-- The slave's part can be told from another: a pause ends and buffered bytes are assembled. -/
def slaveTickShows (u : Slave) : Bool := decide (u.state = .paused) && decide (u.timer = 1)

/-- How many parts of this `TICK` can be told apart by their order. -/
def tickShows (s : State) : Nat :=
  (if masterTickShows s then 1 else 0) + s.slaves.countP slaveTickShows

/-- The parts named first, in the order they are named, then the others. -/
def orderParts (named parts : List Nat) : List Nat :=
  (named.filter (parts.contains ·)).dedup ++ parts.filter (fun q => !named.contains q)

/-- The parts of a `TICK` in the order they are performed. R341 calls the order immaterial; where it shows, it is
a free value (notes/assumptions/6.md). -/
def tickParts (s : State) : List Nat :=
  let parts := List.range (s.slaves.length + 1)
  if tickShows s ≤ 1 then parts else orderParts (Config.tickOrder s.freeCount) parts

/-- Perform the parts one after another. -/
def runTickParts : List Nat → State → Result
  | [], s => .next s
  | q :: rest, s => andThen (tickPart s q) (runTickParts rest)

/-- `TICK` (R341). -/
def tick (s : State) : Result :=
  runTickParts (tickParts s) (if tickShows s ≤ 1 then s else countFree s)

/-! ## The host port and the internal events -/

/-- `HOST(op, operands)` (R104, R105). -/
def hostCommand (command : List Byte) (s : State) : Result :=
  match decode command with
  | .error why => .refused (.notAnOperation why)
  | .ok (i, _) => if i.isHostOp then exec i s else .refused .frameAtHostPort

/-- `GRANT(U)` (R171). -/
def grantStep (u : MasterUnit) (s : State) : Result :=
  if grantEnabled s u then .next (grant u s) else .refused .notEnabled

/-- `POLL_SKIP` (R245). -/
def skipStep (s : State) : Result := if skipEnabled s then .next (pollSkip s) else .refused .notEnabled

/-- The step of one event (R8, R9). -/
def handle (e : Input) (s : State) : Result :=
  match e with
  | .tick => tick s
  | .mRx b => masterRx b s
  | .mTxByte => .next (masterTxByte s)
  | .sRx p b => slaveRx p b s
  | .sTxByte p => slaveTxByte p s
  | .mXfault => .next (masterFault s)
  | .sXfault p => slaveFault p s
  | .host command => hostCommand command s
  | .grant u => grantStep u s
  | .pollSkip => skipStep s

/-- The internal events that are enabled (R171, R245). -/
def enabledInternal (s : State) : List Input :=
  (if grantEnabled s .poll then [.grant .poll] else []) ++
    (if grantEnabled s .sc then [.grant .sc] else []) ++
    (if grantEnabled s .scan then [.grant .scan] else []) ++
    (if skipEnabled s then [.pollSkip] else [])

/-- The internal event a step with no event given takes: an enabled one, ARB_POLICY choosing where there are several
(R172), none where none is enabled. That such a step takes one at all is the model's choice: DESIGN CHOICE,
notes/assumptions/5.md. -/
def internalChoice (s : State) : Option Input :=
  match enabledInternal s with
  | [] => none
  | e :: es => some ((e :: es).getD (Config.arbPolicy s.freeCount % (es.length + 1)) e)

/-- With no event given: the chosen internal event happens, a choice among several counted as one use of a free value;
with none enabled the block does nothing (R371). -/
def internalStep (s : State) : Result :=
  match internalChoice s with
  | none => .next s
  | some e => handle e (if (enabledInternal s).length ≤ 1 then s else countFree s)

/-- One step: the next event given, or an internal one. -/
def stepEvent (s : State) : Result :=
  match s.inputs with
  | [] => internalStep s
  | e :: rest => handle e { s with inputs := rest }

/-- The event a step takes: the next one given, or the chosen internal one. -/
def nextEvent (s : State) : Option Input :=
  match s.inputs with
  | [] => internalChoice s
  | e :: _ => some e

/-! ## Placing one instruction -/

/-- The slave unit of port 0; one as after reset where the instance has no port. -/
def unitZero (s : State) : Slave := (s.slaves.head?).getD Slave.reset

/-- The state in which the next event completes the request frame `bytes` on port 0: a listener that has
collected all but the last byte. -/
def placeRequest (s : State) (bytes : List Byte) : State :=
  { s with
    slaves :=
      { unitZero s with state := .collecting, acc := bytes.dropLast, txq := [], cancelReq := false } :: s.slaves.tail
    inputs := .sRx 0 (bytes.getLast?.getD 0) :: s.inputs }

/-- The state in which the next event completes the response frame `bytes` at the master: SC has the lock and an
open await window that has collected all but the last byte. -/
def placeResponse (s : State) (bytes : List Byte) : State :=
  { s with
    lock := .held .sc
    mTxq := []
    mAcc := bytes.dropLast
    sc := { s.sc with state := .await, id := 1, left := 1, timer := 1 }
    inputs := .mRx (bytes.getLast?.getD 0) :: s.inputs }

/-- The state in which the next event hands `command` to the host port. -/
def placeCommand (s : State) (command : List Byte) : State := { s with inputs := .host command :: s.inputs }

/-- The state in which the next event hands `command`, an operation on the listener of port 0, to the host port: port 0
has a listener, and it is stopped, as after reset, where SLAVE_START is accepted. -/
def placeSlaveCommand (s : State) (command : List Byte) : State :=
  placeCommand { s with slaves := { unitZero s with state := .stopped } :: s.slaves.tail } command

/-- The state in which the next event runs the instruction whose table bits are `w`. -/
def placeWord (s : State) (nbits w : Nat) : State :=
  match decodeTableWord nbits w with
  | none => placeCommand s (tableWordBytes nbits w)
  | some i =>
    match i with
    | .rspAck _ _ _ | .rspRead _ _ _ _ => placeResponse s (encode i)
    | .reqRead _ _ _ _ | .reqSet _ _ _ => placeRequest s (encode i)
    | .slaveStart _ | .slaveStop _ => placeSlaveCommand s (tableWordBytes nbits w)
    | _ => placeCommand s (tableWordBytes nbits w)

end Sys2Proof.Machine
end

