-- ==== Sys2Proof/Machine/Step.lean ====
section
/-! DEFINITION. One step of the block, and a state whose next step runs a given instruction. -/

namespace Sys2Proof.Machine

/-- One step: the next event, an input of the environment or an internal one (R8). -/
def step (s : State) : Host.Outcome State Fault Refusal := stepEvent s

/-- `s` prepared so that its next step runs the instruction whose opcode-table bits are `w`. -/
def State.withFetchWord (s : State) (nbits w : Nat) : State := placeWord s nbits w

end Sys2Proof.Machine
end

