-- ==== Sys2Proof/Safety.lean ====
section
/-! DEFINITION. What holds in every state a run of the block can reach, in the terms the statements use: the
invariants of the master side (42_master_rx_and_lock.md R175, 45_polling.md R254), of the timers (60_exceptions.md
R341), of a slave unit (46_slave_assembler.md R282) and of the register ranges (10_state.md); the terms for events and
traces; and the runs that the fairness assumption of R172 admits. -/

namespace Sys2Proof.Machine

/-! ## The master side -/

/-- R175 (a): `LOCK = U` iff U is in U.TX or U.AWAIT. -/
def LockFollowsStates (s : State) : Prop :=
  ∀ u : MasterUnit, s.lock = .held u ↔ (inTransmit s u = true ∨ inAwait s u = true)

/-- R175 (b): M_TXQ is non-empty only if the owner is in U.TX. -/
def QueueBelongsToSender (s : State) : Prop :=
  s.mTxq ≠ [] → ∃ u : MasterUnit, s.lock = .held u ∧ inTransmit s u = true

/-- R175 (c), first half: M_ACC is non-empty only if the owner is in U.AWAIT. -/
def BufferBelongsToReceiver (s : State) : Prop := s.mAcc ≠ [] → rxOpen s = true

/-- R175 (c), second half: M_ACC is empty, or the single byte 0x44, or begins with 0x44 0x54 and is shorter than
the frame its Command byte announces. -/
def PartialResponse (acc : List Byte) : Prop :=
  acc = [] ∨ acc = [rspMagic0] ∨
    ∃ rest, acc = rspMagic0 :: rspMagic1 :: rest ∧
      (acc.length < 4 ∨ ∃ len, responseLength (byteAt acc 3) = some len ∧ acc.length < len)

/-- R254 (a) and (c): a cancel request is pending only while a cycle's transaction is in flight, and `Parsing` is
never the state between steps. -/
def PollStatesSound (s : State) : Prop :=
  (s.poll.cancelReq = true → s.poll.state = .transmitting ∨ s.poll.state = .awaitingResponse) ∧
    s.poll.state ≠ .parsing

/-- The invariants of the master side (R175 (a) to (d), R254 (a), (c)). -/
structure MasterInv (s : State) : Prop where
  lock : LockFollowsStates s
  queue : QueueBelongsToSender s
  buffer : BufferBelongsToReceiver s
  partialFrame : PartialResponse s.mAcc
  poll : PollStatesSound s

/-! ## The timers -/

/-- The states in which POLL.timer runs (R341). -/
def pollTimed (s : State) : Bool :=
  decide (s.poll.state = .awaitingResponse) || decide (s.poll.state = .sleeping)

/-- The states in which SC.timer runs (R341). -/
def scTimed (s : State) : Bool := decide (s.sc.state = .await) || decide (s.sc.state = .backoff)

/-- The states in which SCAN.timer runs (R341). -/
def scanTimed (s : State) : Bool :=
  decide (s.scan.state = .await) || decide (s.scan.state = .retrySleep) || decide (s.scan.state = .interDelay)

/-- The states in which SLV.timer runs (R341). -/
def slvTimed (u : Slave) : Bool :=
  (decide (u.state = .dispatching) && decide (u.phase = .delay)) || decide (u.state = .paused)

/-- "a unit is never left in a timed state with its timer at 0" (R341). -/
structure TimersInv (s : State) : Prop where
  poll : pollTimed s = true → s.poll.timer ≠ 0
  sc : scTimed s = true → s.sc.timer ≠ 0
  scan : scanTimed s = true → s.scan.timer ≠ 0
  slaves : ∀ u ∈ s.slaves, slvTimed u = true → u.timer ≠ 0

/-! ## A slave unit -/

/-- What holds of one slave unit between steps: `Validating` is transient (R285); stopped, it holds no byte
(R317, R318); seeking, it has kept at most the first magic byte (R283); collecting, it holds two to six bytes
that begin with the magic (R282); a response waits exactly while phase SEND lasts (R290). -/
structure SlaveOk (u : Slave) : Prop where
  settled : u.state ≠ .validating
  stopped : u.state = .stopped → u.acc = []
  seeking : u.state = .seeking → u.acc = [] ∨ u.acc = [reqMagic0]
  collecting : u.state = .collecting →
    u.acc.length < reqLen ∧ ∃ rest, u.acc = reqMagic0 :: reqMagic1 :: rest
  sending : u.txq ≠ [] ↔ (u.state = .dispatching ∧ u.phase = .send)

/-- Every slave unit of the instance is so. -/
def SlavesInv (s : State) : Prop := ∀ u ∈ s.slaves, SlaveOk u

/-! ## Ranges -/

/-- The values the registers keep to: MAXRPM at most the cap (R21); a queued Set names an id 1..64 and an RPM under
the cap (R24); a TRYSET in progress likewise, with an attempt left (R35); a scan in progress probes inside 1..64
(R36), has an attempt left but between two ids (R195, R196), and between two ids the probed one is not the last
(R196). -/
structure RangesInv (s : State) : Prop where
  maxRpm : s.maxRpm.toNat ≤ maxRpmCap
  pend : s.pend.valid = true → 1 ≤ s.pend.id.toNat ∧ s.pend.id.toNat ≤ 64 ∧ s.pend.rpm.toNat ≤ maxRpmCap
  sc : s.sc.state ≠ .idle →
    1 ≤ s.sc.id.toNat ∧ s.sc.id.toNat ≤ 64 ∧ s.sc.rpm.toNat ≤ maxRpmCap ∧
      1 ≤ s.sc.left.toNat ∧ s.sc.left.toNat ≤ 256
  scan : s.scan.state ≠ .idle →
    1 ≤ s.scan.cur.toNat ∧ s.scan.cur.toNat ≤ s.scan.hi.toNat ∧ s.scan.hi.toNat ≤ 64
  scanLeft : s.scan.state ≠ .idle → s.scan.state ≠ .interDelay →
    1 ≤ s.scan.left.toNat ∧ s.scan.left.toNat ≤ 256
  between : s.scan.state = .interDelay → s.scan.cur ≠ s.scan.hi

/-! ## Attempts of a TRYSET -/

/-- The attempts a TRYSET in progress has begun and those it may still begin: SC.left counts the running attempt
until it fails (R213, R216). -/
def attemptBudget (s : State) : Nat :=
  if s.sc.state = .transmit ∨ s.sc.state = .await then s.sc.sent.toNat + s.sc.left.toNat - 1
  else s.sc.sent.toNat + s.sc.left.toNat

/-! ## Events, streams, selections -/

/-- The step that event `e` causes at `s`. -/
def onEvent (e : Input) (s : State) : Result := step { s with inputs := e :: s.inputs }

/-- The steps that a stream of bytes causes at slave port `p`, one `S_RX` for each byte. -/
def feed (p : Nat) : List Byte → State → Result
  | [], s => .next s
  | b :: t, s => andThen (onEvent (.sRx p b) s) (feed p t)

/-- The events of the transports and the tick (R9): all inputs but the host's. -/
def isTransportEvent : Input → Bool
  | .tick | .mRx _ | .mTxByte | .mXfault => true
  | .sRx _ _ | .sTxByte _ | .sXfault _ => true
  | .host _ | .grant _ | .pollSkip => false

/-- The slave port an event names. -/
def portOf : Input → Option Nat
  | .sRx p _ | .sTxByte p | .sXfault p => some p
  | _ => none

/-- The ids that the next `k` selections of the scheduler pick while IDSET stays as it is (R243, R252). -/
def selections : Nat → State → List Nat
  | 0, _ => []
  | k + 1, s => nth s.idSet (pollIndex s) :: selections k (pollGrant s)

/-- The buffer is empty, is the first magic byte alone, or begins with the magic: it "could still begin with the
magic" (R129). -/
def CouldBegin (m0 m1 : Byte) (t : List Byte) : Prop :=
  t = [] ∨ t = [m0] ∨ ∃ rest, t = m0 :: m1 :: rest

/-! ## Traces -/

/-- Nothing already published, transmitted or returned is taken back, and the instance keeps its parameters and its
ports (R10, R39). -/
structure Extends (s t : State) : Prop where
  params : t.params = s.params
  evOut : s.evOut <+: t.evOut
  retOut : s.retOut <+: t.retOut
  mTxOut : s.mTxOut <+: t.mTxOut
  ports : t.slaves.length = s.slaves.length
  sTxOut : ∀ (p : Nat) (u v : Slave), s.slaves[p]? = some u → t.slaves[p]? = some v → u.txOut <+: v.txOut

/-- The id and the RPM that a published event records: a response the master dispatched (R167), or a Set a slave
received (R287). -/
def recordedRpm : OutEvent → Option (Nat × Word16)
  | .ack id rpm => some (id.toNat, rpm)
  | .read id rpm _ => some (id.toNat, rpm)
  | .sReq id cmd rpm => if cmd = cmdSet then some (id.toNat, rpm) else none
  | .decodeErr _ _ | .timeout _ _ | .setWarning _ _ | .setResult _ _ _ | .scanDone _ => none
  | .xfault _ | .txn _ _ _ _ _ _ _ | .pollStopped | .sStopped _ => none

/-- The RPM map changed only in entries that events published meanwhile record (R20). -/
def MapFollows (s t : State) : Prop :=
  t.rpmMap = s.rpmMap ∨ ∀ a, 1 ≤ a → a ≤ 64 →
    readMap t a = readMap s a ∨ ∃ e ∈ t.evOut.drop s.evOut.length, recordedRpm e = some (a, readMap t a)

/-- The events that slave ports publish (R285 to R291, R318). -/
def isSlaveReport : OutEvent → Bool
  | .decodeErr .slv _ | .sReq _ _ _ | .xfault .s | .sStopped _ => true
  | .decodeErr (.master _) _ | .read _ _ _ | .ack _ _ | .timeout _ _ | .setWarning _ _ | .setResult _ _ _ => false
  | .scanDone _ | .xfault .m | .txn _ _ _ _ _ _ _ | .pollStopped => false

/-- After a step from `s` the shared registers of the master and EVOUT are as in `d`, but for what slave ports
published in the same step; they publish in a tick only where a pause runs out (R341). -/
structure EndedAs (d s t : State) : Prop where
  lock : t.lock = d.lock
  mTxq : t.mTxq = d.mTxq
  mAcc : t.mAcc = d.mAcc
  txn : t.txn = d.txn
  idSet : t.idSet = d.idSet
  evOut : ∃ pre new post, d.evOut = s.evOut ++ new ∧ t.evOut = s.evOut ++ pre ++ new ++ post ∧
    ∀ e ∈ pre ++ post, isSlaveReport e = true
  alone : (∀ u ∈ s.slaves, slaveTickShows u = false) → t.evOut = d.evOut

/-! ## Runs and fairness (R8, R172) -/

/-- The environment gives events and processing delays, after those that wait already. -/
def State.arrive (events : List Input) (delays : List Word16) (s : State) : State :=
  { s with inputs := s.inputs ++ events, draws := s.draws ++ delays }

/-- An endless run: at each step the environment may give events and delays, and then the block takes one step. -/
structure Run where
  state : Nat → State
  events : Nat → List Input
  delays : Nat → List Word16
  steps : ∀ n, step ((state n).arrive (events n) (delays n)) = .next (state (n + 1))

/-- The event that the n-th step of the run takes. -/
def Run.taken (r : Run) (n : Nat) : Option Input := nextEvent ((r.state n).arrive (r.events n) (r.delays n))

/-- Weak fairness (R172, R381 (a)): an internal event, a grant or POLL_SKIP, that stays enabled is eventually taken.
It is an assumption on runs that a claim about progress states; no step enforces it, and ARB_POLICY is unconstrained.
-/
def Run.WeaklyFair (r : Run) : Prop :=
  ∀ (e : Input) (k : Nat), (∀ n, k ≤ n → e ∈ enabledInternal (r.state n)) → ∃ n, k ≤ n ∧ r.taken n = some e

/-- The fairness that R382 asks of an arbitration, so that a unit that finds the lock free again and again is not
passed over for ever: an internal event that is enabled again and again is eventually taken. DEDUCED,
notes/assumptions/18.md. -/
def Run.ArbiterFair (r : Run) : Prop :=
  ∀ (e : Input) (k : Nat), (∀ m, ∃ n, m ≤ n ∧ e ∈ enabledInternal (r.state n)) → ∃ n, k ≤ n ∧ r.taken n = some e

end Sys2Proof.Machine
end

