-- ==== Sys2Proof/WellFormed.lean ====
section
/-! DEFINITION. Which instructions are well formed on their own: the conditions the spec puts on an instruction's
fields and operands without reference to the state. -/

namespace Sys2Proof

/-- The conditions on one instruction: a request frame holds its checksum and an id 1..64 (R100), a response its
checksum (R101), `availableLen` does not pass the buffer's end (R127), `baud` and the denominator are not 0
(R255), LOAD_RPM and READ_RPM name an id 1..64 (R105). -/
def Instr.wellFormed : Instr → Bool
  | .reqRead id d1 d2 ck => checksumOk (encode (.reqRead id d1 d2 ck)) && idInRange id
  | .reqSet id rpm ck => checksumOk (encode (.reqSet id rpm ck)) && idInRange id
  | .rspAck id rpm ck => checksumOk (encode (.rspAck id rpm ck))
  | .rspRead id rpm alarm ck => checksumOk (encode (.rspRead id rpm alarm ck))
  | .decodeResponse buffer n => decide (n ≤ buffer.length)
  | .estimate baud _ _ p => decide (0 < baud) && decide (0 < p.den)
  | .loadRpm id _ => idInRange id
  | .readRpm id => idInRange id
  | .encodeRequest _ _ _ _ => true
  | .encodeTargetAck _ _ => true
  | .encodeReadRsp _ _ _ => true
  | .alarmDecode _ => true
  | .alarmDescribe _ => true
  | .alarmHasFault _ => true
  | .alarmIsRemote _ => true
  | .scan _ _ _ _ _ => true
  | .trySet _ _ _ _ _ => true
  | .pollStart => true
  | .pollCancel => true
  | .queueSet _ _ => true
  | .setMaxRpm _ => true
  | .loadIdSet _ => true
  | .setAlarm _ => true
  | .slaveStart _ => true
  | .slaveStop _ => true

end Sys2Proof
end

