-- ==== Sys2Proof/Certificates/Slice0/Obligations.lean ====
section
/-! DEFINITION. The statements for the provers: one proposition for each. A statement gives the whole next state
where it can (`.next { s with … }` leaves every field it does not name as it was); where the RPM map is written it
gives the map entry by entry through `readMap` and every other field through `{ t with rpmMap := s.rpmMap }`. -/

open Sys2Proof Sys2Proof.Machine

/-! ## FrameCodec -/

/-- R120, R121, R130: the checksum is the sum of the bytes modulo 256; every built frame holds it, and decoding what
was built gives it back. -/
def Obligations.ChecksumAndCodecRoundTrips : Prop :=
  (sum8 [] = 0 ∧ ∀ (f : List Byte) (last : Byte),
    (sum8 f).toNat = (f.map BitVec.toNat).sum % 256 ∧
      (checksumOk (f ++ [last]) = true ↔ last.toNat = (f.map BitVec.toNat).sum % 256)) ∧
    (∀ id command data1 data2 : Byte, checksumOk (requestFrame id command data1 data2) = true) ∧
    (∀ (id : Byte) (rpm : Word16), checksumOk (targetAckFrame id rpm) = true) ∧
    (∀ (id : Byte) (rpm alarm : Word16), checksumOk (readRspFrame id rpm alarm) = true) ∧
    (∀ (id : Byte) (rpm : Word16), decodeResponse (targetAckFrame id rpm) 7 = .ok (.ack id rpm)) ∧
    (∀ (id : Byte) (rpm alarm : Word16),
      decodeResponse (readRspFrame id rpm alarm) 9 = .ok (.readRsp id rpm alarm)) ∧
    (∀ (id : Byte) (rpm : Word16),
      decodeRequest (setRequest id rpm) = .ok (.set (BitVec.ofNat 8 (clamp id.toNat 1 64)) rpm)) ∧
    ∀ id : Byte, decodeRequest (readRequest id) = .ok (.read (BitVec.ofNat 8 (clamp id.toNat 1 64)))

/-- R129: header seeking keeps the longest suffix that could still begin with the magic. -/
def Obligations.ResyncKeepsTheLongestCandidate : Prop :=
  ∀ (m0 m1 : Byte) (acc : List Byte),
    resync m0 m1 acc <:+ acc ∧ CouldBegin m0 m1 (resync m0 m1 acc) ∧
      ∀ t : List Byte, t <:+ acc → CouldBegin m0 m1 t → t.length ≤ (resync m0 m1 acc).length

/-- R122, R124, R125: the three frame builders, byte for byte. A request's id is clamped, nothing else is; an RPM goes
high byte first, the alarm word low byte first. -/
def Obligations.EncodersBuildFramesByteExact : Prop :=
  (∀ (id command data1 data2 : Byte) (s : State),
    let i := min (max id.toNat 1) 64
    exec (.encodeRequest id command data1 data2) s = .next { s with
      retOut := s.retOut ++ [.frame [0x49, 0x53, BitVec.ofNat 8 i, command, data1, data2,
        BitVec.ofNat 8 (0x49 + 0x53 + i + command.toNat + data1.toNat + data2.toNat)]] }) ∧
    ∀ (id : Byte) (rpm alarm : Word16) (s : State),
      let hi := rpm.toNat / 256
      let lo := rpm.toNat % 256
      let aHi := alarm.toNat / 256
      let aLo := alarm.toNat % 256
      exec (.encodeTargetAck id rpm) s = .next { s with
        retOut := s.retOut ++ [.frame [0x44, 0x54, id, 0x01, BitVec.ofNat 8 hi, BitVec.ofNat 8 lo,
          BitVec.ofNat 8 (0x44 + 0x54 + id.toNat + 0x01 + hi + lo)]] } ∧
        exec (.encodeReadRsp id rpm alarm) s = .next { s with
          retOut := s.retOut ++ [.frame [0x44, 0x54, id, 0x05, BitVec.ofNat 8 hi, BitVec.ofNat 8 lo,
            BitVec.ofNat 8 aLo, BitVec.ofNat 8 aHi,
            BitVec.ofNat 8 (0x44 + 0x54 + id.toNat + 0x05 + hi + lo + aLo + aHi)]] }

/-- R127: DECODE_RESPONSE's tests in their order, for every buffer that holds the bytes declared valid. -/
def Obligations.DecodeResponseTestsInOrder : Prop :=
  ∀ (buffer : List Byte) (n : Nat) (s : State), n ≤ buffer.length →
    let b := fun i => buffer.getD i 0
    let sumFails := fun L => (b (L - 1)).toNat ≠ ((buffer.take (L - 1)).map BitVec.toNat).sum % 256
    let rpm : Word16 := BitVec.ofNat 16 ((b 4).toNat * 256 + (b 5).toNat)
    let alarm : Word16 := BitVec.ofNat 16 ((b 7).toNat * 256 + (b 6).toNat)
    let r : HostResult :=
      if n < 2 then .decodeError .truncated
      else if b 0 ≠ 0x44 ∨ b 1 ≠ 0x54 then .decodeError .badHeader
      else if n < 4 then .decodeError .truncated
      else if b 3 = 0x01 then
        if n < 7 then .decodeError .truncated
        else if sumFails 7 then .decodeError .checksumMismatch
        else .parsed (.ack (b 2) rpm)
      else if b 3 = 0x05 then
        if n < 9 then .decodeError .truncated
        else if sumFails 9 then .decodeError .checksumMismatch
        else .parsed (.readRsp (b 2) rpm alarm)
      else .decodeError .unknownCommand
    exec (.decodeResponse buffer n) s = .next { s with retOut := s.retOut ++ [r] }

/-! ## AlarmDecoder -/

/-- R151: ALARM_DECODE is the word seen bit by bit, and converting the record back gives the word. -/
def Obligations.AlarmDecodeKeepsEveryBit : Prop :=
  ∀ (word : Word16) (s : State), ∃ f : AlarmFlags,
    exec (.alarmDecode word) s = .next { s with retOut := s.retOut ++ [.alarmFlags f] } ∧
      f.overCurrentOrHall = word.getLsbD 0 ∧ f.rpmTooHigh = word.getLsbD 1 ∧ f.rpmTooLow = word.getLsbD 2 ∧
      f.ptcOverheatOrCable = word.getLsbD 3 ∧ (∀ i < 8, f.reserved.getLsbD i = word.getLsbD (4 + i)) ∧
      f.abnormalAnyAlarm = word.getLsbD 12 ∧ f.ipmOverheat = word.getLsbD 13 ∧
      f.inputPowerFault = word.getLsbD 14 ∧ f.localMode = word.getLsbD 15 ∧ alarmWordOf f = word

/-- R152: ALARM_DESCRIBE lists exactly the set condition bits, in ascending order, each once. -/
def Obligations.AlarmDescribeListsSetConditions : Prop :=
  ∀ (flags : Word16) (s : State), ∃ out : List Nat,
    exec (.alarmDescribe flags) s = .next { s with retOut := s.retOut ++ [.conditions out] } ∧
      out.Pairwise (· < ·) ∧
      ∀ b, b ∈ out ↔ b ∈ [0, 1, 2, 3, 12, 13, 14] ∧ flags.getLsbD b = true

/-- R153, R154: the fault test over the seven fault bits, and the remote test over the mode bit. -/
def Obligations.AlarmFaultAndRemoteBits : Prop :=
  ∀ (flags : Word16) (s : State),
    exec (.alarmHasFault flags) s = .next { s with retOut := s.retOut ++ [.bit (flags &&& 0x700F != 0)] } ∧
      exec (.alarmIsRemote flags) s = .next { s with retOut := s.retOut ++ [.bit (!flags.getLsbD 15)] }

/-! ## The estimator -/

/-- R255: ESTIMATE answers the exact value of the formula, and `baud = 0` is not accepted. -/
def Obligations.EstimateIsTheExactFormula : Prop :=
  ∀ (baud slaveCount frameBytes : Nat) (p : Fraction) (s : State),
    (0 < baud → 0 < p.den → ∃ q : Fraction,
      exec (.estimate baud slaveCount frameBytes p) s = .next { s with retOut := s.retOut ++ [.millis q] } ∧
        0 < q.den ∧
        (q.num : ℚ) / q.den =
          ((frameBytes * 2 * (10000 / (baud : ℚ))) + (p.num : ℚ) / p.den) * slaveCount) ∧
      (baud = 0 → exec (.estimate baud slaveCount frameBytes p) s = .refused (.notAccepted "ESTIMATE"))

/-! ## Host operations that start and stop the units -/

/-- R211: TRYSET latches its operands, the id and the RPM clamped, `retries + 1` attempts, and waits for the lock;
while an earlier one runs it is not accepted. -/
def Obligations.TrySetLatchesItsOperands : Prop :=
  ∀ (id retries : Byte) (rpm timeoutMs backoffMs : Word16) (s : State),
    (s.sc.state = .idle → exec (.trySet id rpm retries timeoutMs backoffMs) s = .next { s with
      sc := { s.sc with
        id := BitVec.ofNat 7 (min (max id.toNat 1) 64)
        rpm := BitVec.ofNat 16 (min rpm.toNat s.maxRpm.toNat)
        left := BitVec.ofNat 9 (retries.toNat + 1)
        sent := 0
        timeout := timeoutMs
        backoff := backoffMs
        state := .lockWait } }) ∧
      (s.sc.state ≠ .idle →
        exec (.trySet id rpm retries timeoutMs backoffMs) s = .refused (.notAccepted "TRYSET"))

/-- R190: SCAN clips its range to 1..64 and waits for the lock, or finishes at once on an empty range with an empty
set; while an earlier one runs it is not accepted. -/
def Obligations.ScanClipsItsRange : Prop :=
  ∀ (start stop retries : Byte) (interDelay readTimeout : Word16) (s : State),
    let lo := max start.toNat 1
    let hi := min stop.toNat 64
    let latched : Scan := { s.scan with
      result := 0, retries := retries, interDelay := interDelay, readTimeout := readTimeout }
    (s.scan.state = .idle → hi < lo →
      exec (.scan start stop retries interDelay readTimeout) s = .next { s with
        idSet := 0, evOut := s.evOut ++ [.scanDone 0], scan := { latched with state := .idle } }) ∧
      (s.scan.state = .idle → lo ≤ hi →
        exec (.scan start stop retries interDelay readTimeout) s = .next { s with
          scan := { latched with
            cur := BitVec.ofNat 7 lo, hi := BitVec.ofNat 7 hi
            left := BitVec.ofNat 9 (retries.toNat + 1), state := .lockWait } }) ∧
      (s.scan.state ≠ .idle →
        exec (.scan start stop retries interDelay readTimeout) s = .refused (.notAccepted "SCAN"))

/-- R240, R241: POLL_START and POLL_CANCEL, state by state. -/
def Obligations.PollStartAndCancel : Prop :=
  ∀ s : State,
    (s.poll.state = .cancelled →
      exec .pollStart s = .next { s with poll := { s.poll with cancelReq := false, state := .idle } } ∧
        exec .pollCancel s = .next s) ∧
      (s.poll.state ≠ .cancelled → exec .pollStart s = .refused (.notAccepted "POLL_START")) ∧
      (s.poll.state = .idle ∨ s.poll.state = .sleeping →
        exec .pollCancel s = .next { s with
          poll := { s.poll with cancelReq := false, timer := 0, state := .cancelled }
          evOut := s.evOut ++ [.pollStopped] }) ∧
      (s.poll.state = .transmitting ∨ s.poll.state = .awaitingResponse →
        exec .pollCancel s = .next { s with poll := { s.poll with cancelReq := true } })

/-- R317, R318: SLAVE_START and SLAVE_STOP of port `p`, state by state. -/
def Obligations.SlaveStartAndStop : Prop :=
  ∀ (p : Nat) (u : Slave) (s : State), s.slaves[p]? = some u →
    let stopped : State := { s with
      slaves := s.slaves.set p { u with acc := [], txq := [], timer := 0, cancelReq := false, state := .stopped }
      evOut := s.evOut ++ [.sStopped p] }
    (u.state = .stopped →
      exec (.slaveStart p) s = .next { s with
        slaves := s.slaves.set p { u with acc := [], txq := [], cancelReq := false, state := .seeking } } ∧
        exec (.slaveStop p) s = .next s) ∧
      (u.state ≠ .stopped → exec (.slaveStart p) s = .refused (.notAccepted "SLAVE_START")) ∧
      (u.state = .seeking ∨ u.state = .collecting ∨ u.state = .paused → exec (.slaveStop p) s = .next stopped) ∧
      (u.state = .dispatching → u.phase = .delay → exec (.slaveStop p) s = .next stopped) ∧
      (u.state = .dispatching → u.phase = .send →
        exec (.slaveStop p) s = .next { s with slaves := s.slaves.set p { u with cancelReq := true } })

/-! ## Configuration and access operations -/

/-- R310, R312, R313, R314: the ceiling saturates at 2000, the id set and the alarm word are stored as given, and
QUEUE_SET fills the pending slot, the id and the RPM clamped, whatever it held. -/
def Obligations.ConfigurationWrites : Prop :=
  (∀ (value : Word16) (s : State), exec (.setMaxRpm value) s =
    .next { s with maxRpm := BitVec.ofNat 11 (min value.toNat 2000) }) ∧
    (∀ (set : IdMask) (s : State), exec (.loadIdSet set) s = .next { s with idSet := set }) ∧
    (∀ (word : Word16) (s : State), exec (.setAlarm word) s = .next { s with sAlarm := word }) ∧
    ∀ (id : Byte) (rpm : Word16) (s : State),
      exec (.queueSet id rpm) s = .next { s with
        pend := { valid := true, id := BitVec.ofNat 7 (min (max id.toNat 1) 64)
                  rpm := BitVec.ofNat 16 (min rpm.toNat s.maxRpm.toNat) } }

/-- R315, R316: LOAD_RPM writes one entry of the map and READ_RPM returns one; an id outside 1..64 is not accepted. -/
def Obligations.LoadAndReadOneMapEntry : Prop :=
  ∀ (id : Byte) (rpm : Word16) (s : State),
    (1 ≤ id.toNat → id.toNat ≤ 64 →
      (∃ t, exec (.loadRpm id rpm) s = .next t ∧ { t with rpmMap := s.rpmMap } = s ∧
        ∀ a, 1 ≤ a → a ≤ 64 → readMap t a = if a = id.toNat then rpm else readMap s a) ∧
      exec (.readRpm id) s = .next { s with retOut := s.retOut ++ [.rpm (readMap s id.toNat)] }) ∧
      (id.toNat = 0 ∨ 64 < id.toNat →
        exec (.loadRpm id rpm) s = .refused (.notAccepted "LOAD_RPM") ∧
          exec (.readRpm id) s = .refused (.notAccepted "READ_RPM"))

/-- R105: an op number 21..31 and an operation whose precondition fails are not accepted: no next state. -/
def Obligations.OperationsNotAccepted : Prop :=
  (∀ (op : Byte) (rest : List Byte) (s : State), 21 ≤ op.toNat → op.toNat ≤ 31 →
    onEvent (.host (op :: rest)) s = .refused (.notAnOperation (.unknownOperation op))) ∧
    (∀ (id retries : Byte) (rpm t b : Word16) (s : State), s.sc.state ≠ .idle →
      exec (.trySet id rpm retries t b) s = .refused (.notAccepted "TRYSET")) ∧
    (∀ (lo hi retries : Byte) (d r : Word16) (s : State), s.scan.state ≠ .idle →
      exec (.scan lo hi retries d r) s = .refused (.notAccepted "SCAN")) ∧
    (∀ s : State, s.poll.state ≠ .cancelled → exec .pollStart s = .refused (.notAccepted "POLL_START")) ∧
    (∀ (p : Nat) (u : Slave) (s : State), s.slaves[p]? = some u → u.state ≠ .stopped →
      exec (.slaveStart p) s = .refused (.notAccepted "SLAVE_START")) ∧
    ∀ (id : Byte) (rpm : Word16) (s : State), id.toNat = 0 ∨ 64 < id.toNat →
      exec (.loadRpm id rpm) s = .refused (.notAccepted "LOAD_RPM") ∧
        exec (.readRpm id) s = .refused (.notAccepted "READ_RPM")

/-- The model's choices (notes/assumptions/7.md, 9.md, 12.md). With more bytes declared valid than the buffer holds,
DECODE_RESPONSE still answers one of its results, and one free value is counted. ESTIMATE's result is written in
lowest terms, and an operand with denominator 0, which is no rational number, is not accepted. An event or an
operation of a slave port that the instance does not have stops with a fault; a byte for a full accumulator, and a
frame handed to the host port, are refused. -/
def Obligations.ChoicesBesideTheRules : Prop :=
  (∀ (buffer : List Byte) (n : Nat) (s : State), buffer.length < n →
    ∃ r : HostResult, ((∃ p, r = .parsed p) ∨ ∃ e, r = .decodeError e) ∧
      exec (.decodeResponse buffer n) s =
        .next { s with retOut := s.retOut ++ [r], freeCount := s.freeCount + 1 }) ∧
    (∀ (baud slaveCount frameBytes : Nat) (p : Fraction) (s : State),
      (0 < baud → 0 < p.den → ∃ q : Fraction,
        exec (.estimate baud slaveCount frameBytes p) s = .next { s with retOut := s.retOut ++ [.millis q] } ∧
          Nat.Coprime q.num q.den) ∧
        (p.den = 0 → exec (.estimate baud slaveCount frameBytes p) s = .refused (.notAccepted "ESTIMATE"))) ∧
    (∀ (p : Nat) (b : Byte) (s : State), s.slaves.length ≤ p →
      exec (.slaveStart p) s = .fault (.noSuchPort p) ∧ exec (.slaveStop p) s = .fault (.noSuchPort p) ∧
        onEvent (.sRx p b) s = .fault (.noSuchPort p) ∧ onEvent (.sTxByte p) s = .fault (.noSuchPort p) ∧
        onEvent (.sXfault p) s = .fault (.noSuchPort p)) ∧
    (∀ (p n : Nat) (b : Byte) (u : Slave) (s : State), s.slaves[p]? = some u → u.state ≠ .stopped →
      s.params.accDepth = some n → n ≤ u.acc.length → 7 ≤ u.acc.length →
      onEvent (.sRx p b) s = .refused (.accumulatorFull p)) ∧
    ∀ (command left : List Byte) (i : Instr) (s : State), decode command = .ok (i, left) → i.isHostOp = false →
      onEvent (.host command) s = .refused .frameAtHostPort

/-! ## The slave unit -/

/-- R287: a valid Set request is latched, written to the map at once and published; the RPM is taken as received. -/
def Obligations.SetRequestIsLatchedAndFiled : Prop :=
  ∀ (id : Byte) (rpm : Word16) (u : Slave) (s : State), s.slaves[s.activePort]? = some u →
    1 ≤ id.toNat → id.toNat ≤ 64 →
    ∃ t v, exec (.reqSet id rpm
        (BitVec.ofNat 8 (0x49 + 0x53 + id.toNat + 0x06 + rpm.toNat / 256 + rpm.toNat % 256))) s = .next t ∧
      (∀ a, 1 ≤ a → a ≤ 64 → readMap t a = if a = id.toNat then rpm else readMap s a) ∧
      t.evOut = s.evOut ++ [.sReq id 0x06 rpm] ∧
      t.slaves = s.slaves.set s.activePort v ∧ v.state = .dispatching ∧ v.id = id ∧ v.cmd = 0x06 ∧ v.rpm = rpm ∧
      { v with state := u.state, id := u.id, cmd := u.cmd, rpm := u.rpm, phase := u.phase, timer := u.timer,
               txq := u.txq } = u ∧
      { t with rpmMap := s.rpmMap, evOut := s.evOut, slaves := s.slaves, draws := s.draws,
               freeCount := s.freeCount } = s

/-- R288: after a Set request a delay within the bounds is drawn, every delay within the bounds can be the one drawn,
and the acknowledgment with the latched RPM waits to be sent when the delay has run. -/
def Obligations.SetIsAcknowledgedAfterTheDelay : Prop :=
  (∀ (id : Byte) (rpm : Word16) (u : Slave) (s : State), s.slaves[s.activePort]? = some u →
    1 ≤ id.toNat → id.toNat ≤ 64 → s.params.slaveDelayMin.toNat ≤ s.params.slaveDelayMax.toNat →
    ∃ (t : State) (v : Slave) (d : Word16), exec (.reqSet id rpm
        (BitVec.ofNat 8 (0x49 + 0x53 + id.toNat + 0x06 + rpm.toNat / 256 + rpm.toNat % 256))) s = .next t ∧
      t.slaves[s.activePort]? = some v ∧ v.state = .dispatching ∧
      s.params.slaveDelayMin.toNat ≤ d.toNat ∧ d.toNat ≤ s.params.slaveDelayMax.toNat ∧
      (d = 0 → v.phase = .send ∧ v.txq = targetAckFrame id rpm ∧ v.timer = u.timer) ∧
      (d ≠ 0 → v.phase = .delay ∧ v.timer = d ∧ v.txq = u.txq) ∧
      ∀ e rest, s.draws = e :: rest → t.draws = rest ∧
        (s.params.slaveDelayMin.toNat ≤ e.toNat → e.toNat ≤ s.params.slaveDelayMax.toNat → d = e)) ∧
    ∀ (p : Nat) (u : Slave) (s : State), s.slaves[p]? = some u → u.state = .dispatching → u.phase = .delay →
      ∃ t, onEvent .tick s = .next t ∧
        t.slaves[p]? = some (if u.timer = 1
          then { u with timer := 0, txq := targetAckFrame u.id u.rpm, phase := .send }
          else { u with timer := u.timer - 1 })

/-- R289: a valid Read request is answered at once with the cached RPM and the alarm word. -/
def Obligations.ReadRequestIsAnsweredAtOnce : Prop :=
  ∀ (id data1 data2 : Byte) (u : Slave) (s : State), s.slaves[s.activePort]? = some u →
    1 ≤ id.toNat → id.toNat ≤ 64 →
    exec (.reqRead id data1 data2
        (BitVec.ofNat 8 (0x49 + 0x53 + id.toNat + 0x05 + data1.toNat + data2.toNat))) s = .next { s with
      slaves := s.slaves.set s.activePort { u with
        state := .dispatching, id := id, cmd := 0x05
        txq := readRspFrame id (readMap s id.toNat) s.sAlarm, phase := .send }
      evOut := s.evOut ++ [.sReq id 0x05 0] }

/-- R128, R286: a request window with a wrong checksum, an id outside 1..64 or an unknown Command is dropped whole,
the conditions looked at in this order: the exception is published, no response waits, the map is not written, seeking
resumes. First as the instruction, then as the step of the byte that completes the window. -/
def Obligations.DroppedRequestWindows : Prop :=
  (∀ (id data1 data2 ck : Byte) (rpm : Word16) (u : Slave) (s : State), s.slaves[s.activePort]? = some u →
    let dropped := fun k : ExcKind => ({ s with
      slaves := s.slaves.set s.activePort { u with state := .seeking }
      evOut := s.evOut ++ [.decodeErr .slv k] } : State)
    let readSum := (0x49 + 0x53 + id.toNat + 0x05 + data1.toNat + data2.toNat) % 256
    let setSum := (0x49 + 0x53 + id.toNat + 0x06 + rpm.toNat / 256 + rpm.toNat % 256) % 256
    (ck.toNat ≠ readSum → exec (.reqRead id data1 data2 ck) s = .next (dropped .checksumMismatch)) ∧
      (ck.toNat = readSum → id.toNat = 0 ∨ 64 < id.toNat →
        exec (.reqRead id data1 data2 ck) s = .next (dropped .idOutOfRange)) ∧
      (ck.toNat ≠ setSum → exec (.reqSet id rpm ck) s = .next (dropped .checksumMismatch)) ∧
      (ck.toNat = setSum → id.toNat = 0 ∨ 64 < id.toNat →
        exec (.reqSet id rpm ck) s = .next (dropped .idOutOfRange))) ∧
    ∀ (p : Nat) (id cmd d1 d2 ck : Byte) (u : Slave) (s : State), s.slaves[p]? = some u →
      u.state = .collecting → u.acc = [0x49, 0x53, id, cmd, d1, d2] →
      let sum := (0x49 + 0x53 + id.toNat + cmd.toNat + d1.toNat + d2.toNat) % 256
      let idBad := id.toNat = 0 ∨ 64 < id.toNat
      let dropped := fun k : ExcKind => ({ s with
        slaves := s.slaves.set p { u with state := .seeking, acc := [] }
        evOut := s.evOut ++ [.decodeErr .slv k]
        activePort := p } : State)
      (ck.toNat ≠ sum → onEvent (.sRx p ck) s = .next (dropped .checksumMismatch)) ∧
        (ck.toNat = sum → idBad → onEvent (.sRx p ck) s = .next (dropped .idOutOfRange)) ∧
        (ck.toNat = sum → ¬idBad → cmd ≠ 0x05 → cmd ≠ 0x06 →
          onEvent (.sRx p ck) s = .next (dropped .unknownCommand))

/-- R281, R282: a byte for a stopped listener is dropped; one for a dispatching or paused listener is only buffered,
as long as the accumulator has room. -/
def Obligations.BytesForABusyListener : Prop :=
  ∀ (p : Nat) (b : Byte) (u : Slave) (s : State), s.slaves[p]? = some u →
    (u.state = .stopped → onEvent (.sRx p b) s = .next s) ∧
      (u.state = .dispatching ∨ u.state = .paused →
        (s.params.accDepth = none ∨ u.acc.length < 7 ∨ ∃ n, s.params.accDepth = some n ∧ u.acc.length < n) →
        onEvent (.sRx p b) s = .next { s with slaves := s.slaves.set p { u with acc := u.acc ++ [b] } })

/-- R290: a response leaves byte by byte, and after its last byte the listener stops if that was asked, or seeks on in
the bytes buffered meanwhile. -/
def Obligations.ResponseLeavesByteByByte : Prop :=
  ∀ (p : Nat) (u : Slave) (s : State), s.slaves[p]? = some u →
    (u.txq = [] → onEvent (.sTxByte p) s = .next s) ∧
      (∀ b c rest, u.txq = b :: c :: rest → onEvent (.sTxByte p) s = .next { s with
        slaves := s.slaves.set p { u with txOut := u.txOut ++ [b], txq := c :: rest } }) ∧
      (∀ b, u.txq = [b] → u.cancelReq = true → onEvent (.sTxByte p) s = .next { s with
        slaves := s.slaves.set p { u with
          txOut := u.txOut ++ [b], acc := [], txq := [], timer := 0, cancelReq := false, state := .stopped }
        evOut := s.evOut ++ [.sStopped p] }) ∧
      ∀ b, u.txq = [b] → u.cancelReq = false → onEvent (.sTxByte p) s = assemble p { s with
        slaves := s.slaves.set p { u with txOut := u.txOut ++ [b], txq := [], state := .seeking } }

/-- R291: a fault of a running listener's transport is published, abandons what waits to be sent and pauses the
listener for FAULT_PAUSE_MS ticks, its buffer kept; with the last of them seeking resumes: within that tick the
assembler runs on the bytes buffered meanwhile, and where no other timer runs that is all the tick does. -/
def Obligations.SlaveFaultPausesTheListener : Prop :=
  ∀ (p : Nat) (u : Slave) (s : State), s.slaves[p]? = some u →
    (u.state = .stopped → onEvent (.sXfault p) s = .next s) ∧
      (u.state ≠ .stopped → s.params.faultPause ≠ 0 → onEvent (.sXfault p) s = .next { s with
        slaves := s.slaves.set p { u with txq := [], state := .paused, timer := s.params.faultPause }
        evOut := s.evOut ++ [.xfault .s] }) ∧
      (u.state ≠ .stopped → s.params.faultPause = 0 → onEvent (.sXfault p) s = assemble p { s with
        slaves := s.slaves.set p { u with txq := [], state := .seeking, timer := 0 }
        evOut := s.evOut ++ [.xfault .s] }) ∧
      (u.state = .paused → u.timer ≠ 1 →
        ∃ t, onEvent .tick s = .next t ∧ t.slaves[p]? = some { u with timer := u.timer - 1 }) ∧
      (u.state = .paused → u.timer = 1 →
        (∃ t m w, onEvent .tick s = .next t ∧ m.slaves[p]? = some { u with timer := 0, state := .seeking } ∧
          m.params = s.params ∧ m.sAlarm = s.sAlarm ∧ s.evOut <+: m.evOut ∧ assemble p m = .next w ∧
          w.evOut <+: t.evOut ∧ t.slaves[p]? = w.slaves[p]?) ∧
        (pollTimed s = false → scTimed s = false → scanTimed s = false →
          (∀ q v, q ≠ p → s.slaves[q]? = some v → slvTimed v = false) →
          onEvent .tick s = assemble p { s with
            slaves := s.slaves.set p { u with timer := 0, state := .seeking } }))

/-- R282, R283, R285, R286, R71: what the assembler does with any bytes it finds in the buffer, those buffered during
a dispatch or a pause among them. Seeking, it drops bytes up to the magic; fewer than seven bytes wait; a window of
seven is taken whole, and what follows it stays. A window that is a valid request is run as its instruction, and the
bytes behind it wait; a damaged one is dropped, and the assembler goes on with the bytes behind it in the same step.
-/
def Obligations.AssemblerTakesEachWindow : Prop :=
  ∀ (p : Nat) (u : Slave) (s : State), s.slaves[p]? = some u →
    let put := fun (v : Slave) => ({ s with slaves := s.slaves.set p v } : State)
    let sought := resync 0x49 0x53 u.acc
    (u.state = .seeking → sought.length < 2 →
      assemble p s = .next (put { u with acc := sought })) ∧
      (u.state = .seeking → 2 ≤ sought.length →
        assemble p s = assemble p (put { u with acc := sought, state := .collecting })) ∧
      (u.state = .collecting → u.acc.length < 7 → assemble p s = .next s) ∧
      ∀ (id cmd d1 d2 ck : Byte) (rest : List Byte), u.state = .collecting →
        u.acc = 0x49 :: 0x53 :: id :: cmd :: d1 :: d2 :: ck :: rest →
        let sum := (0x49 + 0x53 + id.toNat + cmd.toNat + d1.toNat + d2.toNat) % 256
        let idBad := id.toNat = 0 ∨ 64 < id.toNat
        let taken : State := { put { u with state := .validating, acc := rest } with activePort := p }
        let dropped := fun k : ExcKind => ({ put { u with state := .seeking, acc := rest } with
          evOut := s.evOut ++ [.decodeErr .slv k], activePort := p } : State)
        (ck.toNat ≠ sum → assemble p s = assemble p (dropped .checksumMismatch)) ∧
          (ck.toNat = sum → idBad → assemble p s = assemble p (dropped .idOutOfRange)) ∧
          (ck.toNat = sum → ¬idBad → cmd ≠ 0x05 → cmd ≠ 0x06 →
            assemble p s = assemble p (dropped .unknownCommand)) ∧
          (ck.toNat = sum → ¬idBad → cmd = 0x05 → assemble p s = exec (.reqRead id d1 d2 ck) taken) ∧
          (ck.toNat = sum → ¬idBad → cmd = 0x06 →
            assemble p s = exec (.reqSet id (BitVec.ofNat 16 (d1.toNat * 256 + d2.toNat)) ck) taken)

/-- R292 (a): a corrupted request frame followed at once by a valid one, a Read or a Set, yields exactly one parsed
request, the valid one; the corrupted bytes are dropped. -/
def Obligations.SlaveRecoversFromACorruptedFrame : Prop :=
  ∀ (p : Nat) (i c a b k id : Byte) (u : Slave) (s : State), s.slaves[p]? = some u →
    u.state = .seeking → u.acc = [] → 1 ≤ id.toNat → id.toNat ≤ 64 →
    k.toNat ≠ (0x49 + 0x53 + i.toNat + c.toNat + a.toNat + b.toNat) % 256 →
    (∀ data1 data2 : Byte,
      feed p ([0x49, 0x53, i, c, a, b, k] ++ [0x49, 0x53, id, 0x05, data1, data2,
          BitVec.ofNat 8 (0x49 + 0x53 + id.toNat + 0x05 + data1.toNat + data2.toNat)]) s = .next { s with
        slaves := s.slaves.set p { u with
          state := .dispatching, acc := [], id := id, cmd := 0x05
          txq := readRspFrame id (readMap s id.toNat) s.sAlarm, phase := .send }
        evOut := s.evOut ++ [.decodeErr .slv .checksumMismatch, .sReq id 0x05 0]
        activePort := p }) ∧
      ∀ rpm : Word16, ∃ t v,
        feed p ([0x49, 0x53, i, c, a, b, k] ++ [0x49, 0x53, id, 0x06, BitVec.ofNat 8 (rpm.toNat / 256),
          BitVec.ofNat 8 rpm.toNat,
          BitVec.ofNat 8 (0x49 + 0x53 + id.toNat + 0x06 + rpm.toNat / 256 + rpm.toNat % 256)]) s = .next t ∧
        (∀ e, 1 ≤ e → e ≤ 64 → readMap t e = if e = id.toNat then rpm else readMap s e) ∧
        v.state = .dispatching ∧ v.id = id ∧ v.cmd = 0x06 ∧ v.rpm = rpm ∧ v.acc = [] ∧ v.txOut = u.txOut ∧
        v.cancelReq = u.cancelReq ∧
        { t with rpmMap := s.rpmMap, draws := s.draws, freeCount := s.freeCount } = { s with
          slaves := s.slaves.set p v
          evOut := s.evOut ++ [.decodeErr .slv .checksumMismatch, .sReq id 0x06 rpm]
          activePort := p }

/-- From R43, R293: a byte received at one port has the same effect on that port's unit and on the map in any two
states that agree on the unit, the map, S_ALARM, the parameters and the draws: the master side and the other ports
play no part. -/
def Obligations.PortsShareOnlyTheMap : Prop :=
  ∀ (p : Nat) (b : Byte) (s r t : State),
    s.slaves[p]? = r.slaves[p]? → s.rpmMap = r.rpmMap → s.sAlarm = r.sAlarm → s.params = r.params →
    s.draws = r.draws → s.freeCount = r.freeCount → SlavesInv s →
    onEvent (.sRx p b) s = .next t →
    ∃ t', onEvent (.sRx p b) r = .next t' ∧ t'.slaves[p]? = t.slaves[p]? ∧ t'.rpmMap = t.rpmMap ∧
      (∃ new, t.evOut = s.evOut ++ new ∧ t'.evOut = r.evOut ++ new) ∧
      (∀ q, q ≠ p → t.slaves[q]? = s.slaves[q]?) ∧ t.lock = s.lock ∧ t.mAcc = s.mAcc ∧ t.mTxq = s.mTxq ∧
      t.poll = s.poll ∧ t.sc = s.sc ∧ t.scan = s.scan

/-! ## The master's transport -/

/-- R160, R162: the request leaves byte by byte; with its last byte the owner's await window opens, and a window of
duration 0 is at its deadline at once. -/
def Obligations.RequestLeavesAndWindowOpens : Prop :=
  ∀ (u : MasterUnit) (s : State), s.lock = .held u →
    (s.mTxq = [] → onEvent .mTxByte s = .next s) ∧
      (∀ b c rest, s.mTxq = b :: c :: rest →
        onEvent .mTxByte s = .next { s with mTxOut := s.mTxOut ++ [b], mTxq := c :: rest }) ∧
      ∀ b, s.mTxq = [b] →
        let opened : State := { s with
          mTxOut := s.mTxOut ++ [b], mTxq := [], mAcc := [], txn := { s.txn with elapsed := 0 }
          poll := if u = .poll then { s.poll with state := .awaitingResponse, timer := s.params.pollReadTimeout }
                  else s.poll
          sc := if u = .sc then { s.sc with state := .await, timer := s.sc.timeout } else s.sc
          scan := if u = .scan then { s.scan with state := .await, timer := s.scan.readTimeout } else s.scan }
        onEvent .mTxByte s = .next (if windowOf s u = 0 then deadline u opened else opened)

/-- R161, R164: the reassembler. With no await window open a byte is dropped; else it is appended and the header
sought; a verdict goes to the owner as soon as an unknown Command is seen or the announced length is reached, and the
buffer is emptied. -/
def Obligations.ReassemblerJudgesEachWindow : Prop :=
  (∀ (b : Byte) (s : State), rxOpen s = false → onEvent (.mRx b) s = .next s) ∧
  ∀ (b : Byte) (s : State), rxOpen s = true →
    let acc := resync 0x44 0x54 (s.mAcc ++ [b])
    let cmd := acc.getD 3 0
    let L := if cmd = 0x01 then 7 else 9
    let empty : State := { s with mAcc := [] }
    (acc.length < 4 → onEvent (.mRx b) s = .next { s with mAcc := acc }) ∧
      (4 ≤ acc.length → cmd ≠ 0x01 → cmd ≠ 0x05 →
        onEvent (.mRx b) s = .next (deliver (.bad .unknownCommand (acc.take 4)) empty)) ∧
      (4 ≤ acc.length → cmd = 0x01 ∨ cmd = 0x05 → acc.length < L →
        onEvent (.mRx b) s = .next { s with mAcc := acc }) ∧
      (4 ≤ acc.length → cmd = 0x01 ∨ cmd = 0x05 → L ≤ acc.length →
        (∀ r, decodeResponse (acc.take L) L = .ok r →
          onEvent (.mRx b) s = .next (deliver (.ok r (acc.take L)) empty)) ∧
        ∀ e, decodeResponse (acc.take L) L = .error e →
          onEvent (.mRx b) s = .next (deliver (.bad .checksumMismatch (acc.take L)) empty))

/-- R101: the two response instructions. A frame whose checksum holds is delivered as parsed, any other as a checksum
mismatch; with no await window open nothing happens. -/
def Obligations.ResponseFramesAreJudged : Prop :=
  ∀ (id ck : Byte) (rpm alarm : Word16) (s : State),
    let hi := rpm.toNat / 256
    let lo := rpm.toNat % 256
    let aHi := alarm.toNat / 256
    let aLo := alarm.toNat % 256
    let ackFrame : List Byte := [0x44, 0x54, id, 0x01, BitVec.ofNat 8 hi, BitVec.ofNat 8 lo, ck]
    let readFrame : List Byte := [0x44, 0x54, id, 0x05, BitVec.ofNat 8 hi, BitVec.ofNat 8 lo,
      BitVec.ofNat 8 aLo, BitVec.ofNat 8 aHi, ck]
    exec (.rspAck id rpm ck) s = .next (deliver
        (if ck.toNat = (0x44 + 0x54 + id.toNat + 0x01 + hi + lo) % 256 then .ok (.ack id rpm) ackFrame
         else .bad .checksumMismatch ackFrame) s) ∧
      exec (.rspRead id rpm alarm ck) s = .next (deliver
        (if ck.toNat = (0x44 + 0x54 + id.toNat + 0x05 + hi + lo + aLo + aHi) % 256
         then .ok (.readRsp id rpm alarm) readFrame
         else .bad .checksumMismatch readFrame) s)

/-- R167: a parsed response is filed under its id where the map has one, as received, and published. The last clause
says so of the instruction itself, received while SC waits for an acknowledgment. -/
def Obligations.ResponsesAreFiledAndPublished : Prop :=
  ∀ (id : Byte) (rpm alarm : Word16) (s : State),
    (∀ a, 1 ≤ a → a ≤ 64 →
      readMap (dispatchResponse (.ack id rpm) s) a = (if a = id.toNat then rpm else readMap s a) ∧
        readMap (dispatchResponse (.readRsp id rpm alarm) s) a = (if a = id.toNat then rpm else readMap s a)) ∧
      ({ dispatchResponse (.ack id rpm) s with rpmMap := s.rpmMap } : State) =
        { s with evOut := s.evOut ++ [.ack id rpm] } ∧
      ({ dispatchResponse (.readRsp id rpm alarm) s with rpmMap := s.rpmMap } : State) =
        { s with evOut := s.evOut ++ [.read id rpm alarm] } ∧
      (s.lock = .held .sc → s.sc.state = .await →
        exec (.rspRead id rpm alarm (BitVec.ofNat 8 (0x44 + 0x54 + id.toNat + 0x05 + rpm.toNat / 256 +
            rpm.toNat % 256 + alarm.toNat % 256 + alarm.toNat / 256))) s =
          .next (dispatchResponse (.readRsp id rpm alarm) s))

/-- R212, R215: what SC does with a verdict. Every parsed frame is dispatched; only the TargetAck with SC's id and RPM
ends the attempt, and with it the TRYSET; a damaged frame is reported; otherwise the window keeps running. First as
the instruction that confirms, field by field, then for every verdict. -/
def Obligations.MatchingAckConfirmsTheSet : Prop :=
  ∀ s : State, s.lock = .held .sc → s.sc.state = .await →
    let id : Byte := BitVec.ofNat 8 s.sc.id.toNat
    let hi := s.sc.rpm.toNat / 256
    let lo := s.sc.rpm.toNat % 256
    let ck : Byte := BitVec.ofNat 8 (0x44 + 0x54 + id.toNat + 0x01 + hi + lo)
    let row := fun w : List Byte => OutEvent.txn .sc (s.txn.req.getD 2 0) s.txn.req w s.txn.elapsed false false
    let result : OutEvent := .setResult s.sc.id s.sc.rpm true
    (∃ t, exec (.rspAck id s.sc.rpm ck) s = .next t ∧
      (∀ a, 1 ≤ a → a ≤ 64 → readMap t a = if a = id.toNat then s.sc.rpm else readMap s a) ∧
      { t with rpmMap := s.rpmMap } = { s with
        mAcc := [], mTxq := [], lock := .free, sc := { s.sc with state := .idle }
        evOut := s.evOut ++ [.ack id s.sc.rpm,
          row [0x44, 0x54, id, 0x01, BitVec.ofNat 8 hi, BitVec.ofNat 8 lo, ck], result] }) ∧
      (∀ (p : ParsedResponse) (w : List Byte),
        let m := dispatchResponse p s
        (p = .ack id s.sc.rpm → deliver (.ok p w) s = { m with
          mAcc := [], mTxq := [], lock := .free, sc := { s.sc with state := .idle }
          evOut := m.evOut ++ [row w, result] }) ∧
          (p ≠ .ack id s.sc.rpm → deliver (.ok p w) s = m)) ∧
      ∀ (e : ExcKind) (w : List Byte),
        deliver (.bad e w) s = { s with evOut := s.evOut ++ [.decodeErr (.master .sc) e] }

/-- R193, R194 with R196, R198: what SCAN does with a verdict. A Read response with the probed id ends the probe: the
id is recorded, the transaction ends, and the scan goes on with the next id or, after the last, replaces IDSET and
publishes it. Every other parsed frame is dispatched, a damaged one reported, and the window keeps running. -/
def Obligations.AnsweredProbeIsRecorded : Prop :=
  ∀ s : State, s.lock = .held .scan → s.scan.state = .await →
    (∀ (rpm alarm : Word16) (w : List Byte),
      let id : Byte := BitVec.ofNat 8 s.scan.cur.toNat
      let m := dispatchResponse (.readRsp id rpm alarm) s
      let result : IdMask := s.scan.result ||| (1 <<< (s.scan.cur.toNat - 1))
      let row : OutEvent := .txn .scan (s.txn.req.getD 2 0) s.txn.req w s.txn.elapsed false false
      let ended : State := { m with mAcc := [], mTxq := [], lock := .free }
      deliver (.ok (.readRsp id rpm alarm) w) s =
        if s.scan.cur = s.scan.hi then
          { ended with
            idSet := result, evOut := m.evOut ++ [row, .scanDone result]
            scan := { s.scan with result := result, state := .idle } }
        else if s.scan.interDelay = 0 then
          { ended with
            evOut := m.evOut ++ [row]
            scan := { s.scan with
              result := result, timer := 0, cur := s.scan.cur + 1
              left := BitVec.ofNat 9 (s.scan.retries.toNat + 1), state := .lockWait } }
        else
          { ended with
            evOut := m.evOut ++ [row]
            scan := { s.scan with result := result, timer := s.scan.interDelay, state := .interDelay } }) ∧
      (∀ (id : Byte) (rpm : Word16) (w : List Byte),
        deliver (.ok (.ack id rpm) w) s = dispatchResponse (.ack id rpm) s) ∧
      (∀ (id : Byte) (rpm alarm : Word16) (w : List Byte), id.toNat ≠ s.scan.cur.toNat →
        deliver (.ok (.readRsp id rpm alarm) w) s = dispatchResponse (.readRsp id rpm alarm) s) ∧
      ∀ (e : ExcKind) (w : List Byte),
        deliver (.bad e w) s = { s with evOut := s.evOut ++ [.decodeErr (.master .scan) e] }

/-- R247: the first verdict closes a poll cycle, whatever it is; then the delay begins, or the loop stops if a cancel
request is pending. -/
def Obligations.FirstVerdictClosesThePollCycle : Prop :=
  ∀ (v : Verdict) (s : State), s.lock = .held .poll → s.poll.state = .awaitingResponse →
    let id := s.txn.req.getD 2 0
    let m : State := match v with
      | .ok p w => { dispatchResponse p s with
          evOut := (dispatchResponse p s).evOut ++ [.txn .poll id s.txn.req w s.txn.elapsed false false] }
      | .bad e w => { s with
          evOut := s.evOut ++ [.decodeErr (.master .poll) e, .txn .poll id s.txn.req w s.txn.elapsed false true] }
    let ended : State := { m with mAcc := [], mTxq := [], lock := .free }
    deliver v s =
      if s.poll.cancelReq then
        { ended with
          poll := { s.poll with cancelReq := false, state := .cancelled }, evOut := m.evOut ++ [.pollStopped] }
      else
        { ended with
          poll := { s.poll with
            timer := s.params.pollDelay, state := if s.params.pollDelay = 0 then .idle else .sleeping } }

/-- R216 with R166: SC's deadline, in every state; and the tick that runs SC's timer out takes it: exactly it where no
other timer runs, and whatever else runs out in that tick, but for the deadline of another window, the owner's
registers, the lock, the buffers and what it publishes are those of the deadline. -/
def Obligations.DeadlineOfASetAttempt : Prop :=
  ∀ s : State,
    let id := s.txn.req.getD 2 0
    let events := (if s.mAcc = [] then [] else [.decodeErr (.master .sc) .truncated]) ++
      [.timeout (.master .sc) id, .txn .sc id s.txn.req [] s.txn.elapsed true false]
    let ended : State := { s with mAcc := [], mTxq := [], lock := .free }
    (deadline .sc s =
      if s.sc.left = 1 then
        { ended with
          evOut := s.evOut ++ events ++ [.setWarning s.sc.id s.sc.rpm, .setResult s.sc.id s.sc.rpm false]
          sc := { s.sc with left := 0, state := .idle } }
      else
        { ended with
          evOut := s.evOut ++ events
          sc := { s.sc with
            timer := s.sc.backoff, left := s.sc.left - 1
            state := if s.sc.backoff = 0 then .lockWait else .backoff } }) ∧
      (s.lock = .held .sc → s.sc.state = .await → s.sc.timer = 1 → pollTimed s = false → scanTimed s = false →
        (∀ u ∈ s.slaves, slvTimed u = false) → onEvent .tick s = .next (deadline .sc { s with
          txn := { s.txn with elapsed := BitVec.ofNat 16 (min (s.txn.elapsed.toNat + 1) 65535) }
          sc := { s.sc with timer := 0 } })) ∧
      (s.lock = .held .sc → s.sc.state = .await → s.sc.timer = 1 →
        (s.poll.state = .awaitingResponse → s.poll.timer ≠ 1) → (s.scan.state = .await → s.scan.timer ≠ 1) →
        let d := deadline .sc { s with
          txn := { s.txn with elapsed := BitVec.ofNat 16 (min (s.txn.elapsed.toNat + 1) 65535) }
          sc := { s.sc with timer := 0 } }
        ∃ t, onEvent .tick s = .next t ∧ t.sc = d.sc ∧ EndedAs d s t)

/-- R195 with R166, R196: SCAN's deadline, in every state; and the tick that runs SCAN's timer out takes it: exactly
it where no other timer runs, and whatever else runs out in that tick, but for the deadline of another window, the
owner's registers, the lock, the buffers and what it publishes are those of the deadline. -/
def Obligations.DeadlineOfAProbe : Prop :=
  ∀ s : State,
    let id := s.txn.req.getD 2 0
    let events := (if s.mAcc = [] then [] else [.decodeErr (.master .scan) .truncated]) ++
      [.timeout (.master .scan) id, .txn .scan id s.txn.req [] s.txn.elapsed true false]
    let ended : State := { s with mAcc := [], mTxq := [], lock := .free, evOut := s.evOut ++ events }
    let retrySleep := s.params.scanRetrySleep
    (deadline .scan s =
      if s.scan.left ≠ 1 then
        { ended with scan := { s.scan with
            timer := retrySleep, left := s.scan.left - 1
            state := if retrySleep = 0 then .lockWait else .retrySleep } }
      else if s.scan.cur = s.scan.hi then
        { ended with
          idSet := s.scan.result, evOut := ended.evOut ++ [.scanDone s.scan.result]
          scan := { s.scan with left := 0, state := .idle } }
      else if s.scan.interDelay = 0 then
        { ended with scan := { s.scan with
            timer := 0, cur := s.scan.cur + 1
            left := BitVec.ofNat 9 (s.scan.retries.toNat + 1), state := .lockWait } }
      else
        { ended with scan := { s.scan with timer := s.scan.interDelay, left := 0, state := .interDelay } }) ∧
      (s.lock = .held .scan → s.scan.state = .await → s.scan.timer = 1 → pollTimed s = false → scTimed s = false →
        (∀ u ∈ s.slaves, slvTimed u = false) → onEvent .tick s = .next (deadline .scan { s with
          txn := { s.txn with elapsed := BitVec.ofNat 16 (min (s.txn.elapsed.toNat + 1) 65535) }
          scan := { s.scan with timer := 0 } })) ∧
      (s.lock = .held .scan → s.scan.state = .await → s.scan.timer = 1 →
        (s.poll.state = .awaitingResponse → s.poll.timer ≠ 1) → (s.sc.state = .await → s.sc.timer ≠ 1) →
        let d := deadline .scan { s with
          txn := { s.txn with elapsed := BitVec.ofNat 16 (min (s.txn.elapsed.toNat + 1) 65535) }
          scan := { s.scan with timer := 0 } }
        ∃ t, onEvent .tick s = .next t ∧ t.scan = d.scan ∧ EndedAs d s t)

/-- R248 with R166: POLL's deadline, in every state; and the tick that runs POLL's timer out takes it: exactly it
where no other timer runs, and whatever else runs out in that tick, but for the deadline of another window, the
owner's registers, the lock, the buffers and what it publishes are those of the deadline. -/
def Obligations.DeadlineOfAPollCycle : Prop :=
  ∀ s : State,
    let id := s.txn.req.getD 2 0
    let events := (if s.mAcc = [] then [] else [.decodeErr (.master .poll) .truncated]) ++
      [.timeout (.master .poll) id, .txn .poll id s.txn.req [] s.txn.elapsed true false]
    let ended : State := { s with mAcc := [], mTxq := [], lock := .free }
    (deadline .poll s =
      if s.poll.cancelReq then
        { ended with
          evOut := s.evOut ++ events ++ [.pollStopped]
          poll := { s.poll with cancelReq := false, state := .cancelled } }
      else
        { ended with
          evOut := s.evOut ++ events
          poll := { s.poll with
            timer := s.params.pollDelay, state := if s.params.pollDelay = 0 then .idle else .sleeping } }) ∧
      (s.lock = .held .poll → s.poll.state = .awaitingResponse → s.poll.timer = 1 → scTimed s = false →
        scanTimed s = false → (∀ u ∈ s.slaves, slvTimed u = false) → onEvent .tick s = .next (deadline .poll { s with
          txn := { s.txn with elapsed := BitVec.ofNat 16 (min (s.txn.elapsed.toNat + 1) 65535) }
          poll := { s.poll with timer := 0 } })) ∧
      (s.lock = .held .poll → s.poll.state = .awaitingResponse → s.poll.timer = 1 →
        (s.sc.state = .await → s.sc.timer ≠ 1) → (s.scan.state = .await → s.scan.timer ≠ 1) →
        let d := deadline .poll { s with
          txn := { s.txn with elapsed := BitVec.ofNat 16 (min (s.txn.elapsed.toNat + 1) 65535) }
          poll := { s.poll with timer := 0 } }
        ∃ t, onEvent .tick s = .next t ∧ t.poll = d.poll ∧ EndedAs d s t)

/-- From R341 with R217, R196, R249: a tick always completes; it moves each running timer of a timed wait once and
takes the continuation of the one that reaches 0, whatever the other units do in the same tick; TXN.elapsed counts one
more, up to 65535, while an await window is open (R166); the tick leaves the units that wait for no time alone. -/
def Obligations.TickMovesEachTimerOnce : Prop :=
  ∀ s : State, ∃ t, onEvent .tick s = .next t ∧
    (s.poll.state = .sleeping → t.poll = { s.poll with
      timer := s.poll.timer - 1, state := if s.poll.timer = 1 then .idle else .sleeping }) ∧
    (s.poll.state = .idle ∨ s.poll.state = .transmitting ∨ s.poll.state = .cancelled → t.poll = s.poll) ∧
    (s.poll.state = .awaitingResponse → s.poll.timer ≠ 1 →
      t.poll = { s.poll with timer := s.poll.timer - 1 }) ∧
    (s.sc.state = .backoff → t.sc = { s.sc with
      timer := s.sc.timer - 1, state := if s.sc.timer = 1 then .lockWait else .backoff }) ∧
    (s.sc.state = .idle ∨ s.sc.state = .lockWait ∨ s.sc.state = .transmit → t.sc = s.sc) ∧
    (s.sc.state = .await → s.sc.timer ≠ 1 → t.sc = { s.sc with timer := s.sc.timer - 1 }) ∧
    (s.scan.state = .retrySleep → t.scan = { s.scan with
      timer := s.scan.timer - 1, state := if s.scan.timer = 1 then .lockWait else .retrySleep }) ∧
    (s.scan.state = .interDelay → t.scan = if s.scan.timer = 1
      then { s.scan with
        timer := 0, cur := s.scan.cur + 1, left := BitVec.ofNat 9 (s.scan.retries.toNat + 1), state := .lockWait }
      else { s.scan with timer := s.scan.timer - 1 }) ∧
    (s.scan.state = .idle ∨ s.scan.state = .lockWait ∨ s.scan.state = .transmit → t.scan = s.scan) ∧
    (s.scan.state = .await → s.scan.timer ≠ 1 → t.scan = { s.scan with timer := s.scan.timer - 1 }) ∧
    (rxOpen s = true →
      t.txn = { s.txn with elapsed := BitVec.ofNat 16 (min (s.txn.elapsed.toNat + 1) 65535) }) ∧
    (rxOpen s = false → t.txn = s.txn) ∧
    (∀ (p : Nat) (u : Slave), s.slaves[p]? = some u →
      slvTimed u = false → t.slaves[p]? = some u) ∧
    (∀ (p : Nat) (u : Slave), s.slaves[p]? = some u → u.state = .dispatching → u.phase = .delay →
      t.slaves[p]? = some (if u.timer = 1
        then { u with timer := 0, txq := targetAckFrame u.id u.rpm, phase := .send }
        else { u with timer := u.timer - 1 })) ∧
    (∀ (p : Nat) (u : Slave), s.slaves[p]? = some u → u.state = .paused → u.timer ≠ 1 →
      t.slaves[p]? = some { u with timer := u.timer - 1 })

/-- R174 with R250, R218, R197: a master transport fault ends the running transaction with `error = 1`; POLL pauses,
SC and SCAN count the attempt as failed; with the lock free nothing happens. -/
def Obligations.MasterFaultEndsTheTransaction : Prop :=
  ∀ s : State,
    let row := fun u : MasterUnit => OutEvent.txn u (s.txn.req.getD 2 0) s.txn.req [] s.txn.elapsed false true
    let ended := fun u : MasterUnit => ({ s with
      mAcc := [], mTxq := [], lock := .free, evOut := s.evOut ++ [.xfault .m, row u] } : State)
    (s.lock = .free → onEvent .mXfault s = .next s) ∧
      (s.lock = .held .poll → onEvent .mXfault s = .next (
        if s.poll.cancelReq then
          { ended .poll with
            poll := { s.poll with cancelReq := false, state := .cancelled }
            evOut := (ended .poll).evOut ++ [.pollStopped] }
        else
          { ended .poll with poll := { s.poll with
              timer := s.params.faultPause, state := if s.params.faultPause = 0 then .idle else .sleeping } })) ∧
      (s.lock = .held .sc → onEvent .mXfault s = .next (scAttemptFailed (ended .sc))) ∧
      (s.lock = .held .scan → onEvent .mXfault s = .next (scanAttemptFailed (ended .scan)))

/-! ## Grants and selections -/

/-- R171, R213, R192, R168: a grant of SC or SCAN needs the free lock and a waiting unit; it takes the lock, records
and queues the request and enters the transmit state, all in one step. -/
def Obligations.GrantsBeginTransactions : Prop :=
  ∀ s : State,
    (s.lock = .free → s.sc.state = .lockWait →
      let f := setRequest (BitVec.ofNat 8 s.sc.id.toNat) s.sc.rpm
      onEvent (.grant .sc) s = .next { s with
        lock := .held .sc, txn := { s.txn with req := f }, mTxq := f
        sc := { s.sc with sent := s.sc.sent + 1, state := .transmit } }) ∧
      (s.lock = .free → s.scan.state = .lockWait →
        let f := readRequest (BitVec.ofNat 8 s.scan.cur.toNat)
        onEvent (.grant .scan) s = .next { s with
          lock := .held .scan, txn := { s.txn with req := f }, mTxq := f
          scan := { s.scan with state := .transmit } }) ∧
      (s.lock ≠ .free ∨ s.sc.state ≠ .lockWait → onEvent (.grant .sc) s = .refused .notEnabled) ∧
      (s.lock ≠ .free ∨ s.scan.state ≠ .lockWait → onEvent (.grant .scan) s = .refused .notEnabled) ∧
      (s.lock ≠ .free ∨ s.poll.state ≠ .idle ∨ s.idSet = 0 → onEvent (.grant .poll) s = .refused .notEnabled)

/-- R243, R244: a selection picks the id at the cursor, advances the cursor modulo the set's size, and sends the
pending Set if one is queued, else a Read of the id. -/
def Obligations.SelectionPicksTheIdAtTheCursor : Prop :=
  ∀ s : State, s.lock = .free → s.poll.state = .idle → s.idSet ≠ 0 →
    let n := setSize s.idSet
    let k := s.poll.cursor.toNat % n
    let f := if s.pend.valid then setRequest (BitVec.ofNat 8 s.pend.id.toNat) s.pend.rpm
             else readRequest (BitVec.ofNat 8 (nth s.idSet k))
    onEvent (.grant .poll) s = .next { s with
      lock := .held .poll, txn := { s.txn with req := f }, mTxq := f
      pend := { s.pend with valid := false }
      poll := { s.poll with
        cursor := BitVec.ofNat 6 ((k + 1) % n), curId := BitVec.ofNat 7 (f.getD 2 0).toNat
        state := .transmitting } }

/-- R245: with no active id the cycle is skipped: no lock, nothing transmitted, the cursor and PEND unchanged. -/
def Obligations.EmptySetSkipsTheCycle : Prop :=
  ∀ s : State,
    (s.poll.state = .idle → s.idSet = 0 → onEvent .pollSkip s = .next (
      if s.poll.cancelReq then
        { s with
          poll := { s.poll with cancelReq := false, state := .cancelled }, evOut := s.evOut ++ [.pollStopped] }
      else
        { s with poll := { s.poll with
            timer := s.params.pollDelay, state := if s.params.pollDelay = 0 then .idle else .sleeping } })) ∧
      (s.poll.state ≠ .idle ∨ s.idSet ≠ 0 → onEvent .pollSkip s = .refused .notEnabled)

/-- R22: `nth` counts the members of an id set in ascending order, and `size` counts them all. -/
def Obligations.IdSetMembersAscend : Prop :=
  ∀ set : IdMask,
    (∀ id, id ∈ members set ↔ 1 ≤ id ∧ id ≤ 64 ∧ set.getLsbD (id - 1) = true) ∧
      (members set).Pairwise (· < ·) ∧ setSize set = (members set).length ∧
      ∀ k, k < setSize set → (members set)[k]? = some (nth set k)

/-- R252: from any state the k-th selection picks the member at index `cursor + k` modulo the set's size, so any n
consecutive ones pick each of the n members exactly once. -/
def Obligations.RoundRobinIsFair : Prop :=
  ∀ s : State, s.idSet ≠ 0 →
    (∀ k, selections k s = (List.range k).map
      fun j => nth s.idSet ((s.poll.cursor.toNat + j) % setSize s.idSet)) ∧
      (selections (setSize s.idSet) s).Perm (members s.idSet)

/-- The model's choice (notes/assumptions/5.md): with no input left a step takes one of the enabled internal events,
and where none is enabled nothing happens; an enabled internal event always has a step. Which grants are enabled, the
last clause, is R171's. -/
def Obligations.InternalStepsTakeEnabledEvents : Prop :=
  ∀ s : State, s.inputs = [] →
    (enabledInternal s = [] → step s = .next s) ∧
      (enabledInternal s ≠ [] → ∃ e n t, e ∈ enabledInternal s ∧ step s = onEvent e { s with freeCount := n } ∧
        step s = .next t) ∧
      ∀ u : MasterUnit, Input.grant u ∈ enabledInternal s ↔
        s.lock = .free ∧ (match u with
          | .poll => s.poll.state = .idle ∧ s.idSet ≠ 0
          | .sc => s.sc.state = .lockWait
          | .scan => s.scan.state = .lockWait)

/-- From R172, R381 (a), R382. In a weakly fair run a TRYSET or a scan that waits for the lock does not wait for ever
beside a free lock, however often POLL_SKIP could be taken instead, and the scheduler does not stay at the top of its
loop for ever beside a free lock and an unchanging IDSET, but where POLL_DELAY_MS = 0 makes it skip without end. With
an arbiter that honours what R382 asks (notes/assumptions/18.md), one that finds the lock free again and again is
granted it. -/
def Obligations.WaitingUnitsAreGranted : Prop :=
  ∀ (r : Run) (k : Nat),
    (r.WeaklyFair →
      ((r.state k).sc.state = .lockWait → ∃ n, k ≤ n ∧ (r.state n).lock ≠ .free) ∧
        ((r.state k).scan.state = .lockWait → ∃ n, k ≤ n ∧ (r.state n).lock ≠ .free) ∧
        ((r.state k).poll.state = .idle → (r.state k).params.pollDelay ≠ 0 →
          (∀ n, k ≤ n → (r.state n).idSet = (r.state k).idSet) →
          ∃ n, k ≤ n ∧ ((r.state n).lock ≠ .free ∨ (r.state n).poll.state ≠ .idle))) ∧
      (r.ArbiterFair → (∀ m, ∃ n, m ≤ n ∧ (r.state n).lock = .free) →
        ((r.state k).sc.state = .lockWait → ∃ n, k ≤ n ∧ (r.state n).lock = .held .sc) ∧
          ((r.state k).scan.state = .lockWait → ∃ n, k ≤ n ∧ (r.state n).lock = .held .scan))

/-! ## The step -/

/-- A step runs the decoded instruction: a host command at once; a frame in the step whose byte completes it, at the
state in which the receiver has consumed it. -/
def Obligations.StepRunsTheDecodedInstruction : Prop :=
  (∀ (s : State) (command : List Byte) (rest : List Input) (i : Instr) (left : List Byte),
    s.inputs = .host command :: rest → decode command = .ok (i, left) → i.isHostOp = true →
    step s = exec i { s with inputs := rest }) ∧
    (∀ (s : State) (p : Nat) (u : Slave) (b : Byte) (rest : List Input) (i : Instr),
      s.inputs = .sRx p b :: rest → s.slaves[p]? = some u → u.state = .collecting → u.acc.length = 6 →
      u.acc.take 2 = [0x49, 0x53] → decode (u.acc ++ [b]) = .ok (i, []) →
      step s = exec i { s with
        inputs := rest, slaves := s.slaves.set p { u with state := .validating, acc := [] }, activePort := p }) ∧
    ∀ (s : State) (b : Byte) (rest : List Input) (i : Instr),
      s.inputs = .mRx b :: rest → rxOpen s = true → (s.mAcc ++ [b]).take 2 = [0x44, 0x54] →
      decode (s.mAcc ++ [b]) = .ok (i, []) →
      step s = exec i { s with inputs := rest, mAcc := [] }

/-- R330: in every state, every event of a transport and every tick has a next state, but for a byte that finds the
accumulator of a running listener full. -/
def Obligations.NoTransportEventStopsTheBlock : Prop :=
  ∀ (e : Input) (s : State), isTransportEvent e = true →
    (∀ p, portOf e = some p → ∃ u, s.slaves[p]? = some u ∧
      ∀ b, e = .sRx p b → u.state = .stopped ∨ accFull s.params u = false) →
    ∃ t, onEvent e s = .next t

/-! ## Reset -/

/-- R44: the reset values the table gives, the map's through its parameter, whatever number of slave units the
instance has. -/
def Obligations.ResetValues : Prop :=
  State.reset = State.resetWith Config.nports ∧ ∀ ports : Nat,
    let s := State.resetWith ports
    (∀ i, 1 ≤ i → i ≤ 64 → readMap s i = Config.rpmReset i) ∧ s.maxRpm = 1500 ∧ s.idSet = 0 ∧ s.sAlarm = 0 ∧
      s.pend.valid = false ∧ s.lock = .free ∧ s.mTxq = [] ∧ s.mAcc = [] ∧
      s.poll.state = .cancelled ∧ s.poll.cursor = 0 ∧ s.poll.cancelReq = false ∧ s.poll.timer = 0 ∧
      s.sc.state = .idle ∧ s.sc.timer = 0 ∧ s.sc.left = 0 ∧ s.sc.sent = 0 ∧
      s.scan.state = .idle ∧ s.scan.timer = 0 ∧ s.slaves.length = ports ∧
      (∀ u ∈ s.slaves, u.state = .stopped ∧ u.acc = [] ∧ u.txq = [] ∧ u.timer = 0 ∧ u.cancelReq = false ∧
        u.txOut = []) ∧
      s.mTxOut = [] ∧ s.evOut = []

/-- R371: the state after reset is quiescent, whatever number of slave units the instance has: every sequencer is
stopped, no internal event is enabled, and no event of a transport and no tick changes anything. -/
def Obligations.ResetIsQuiescent : Prop :=
  State.reset = State.resetWith Config.nports ∧ ∀ ports : Nat,
    let s := State.resetWith ports
    (s.poll.state = .cancelled ∧ s.sc.state = .idle ∧ s.scan.state = .idle ∧ (∀ u ∈ s.slaves, u.state = .stopped) ∧
      s.lock = .free ∧ s.idSet = 0 ∧ s.pend.valid = false ∧ s.maxRpm = 1500) ∧
      enabledInternal s = [] ∧ step s = .next s ∧
      ∀ e : Input, isTransportEvent e = true → (∀ p, portOf e = some p → p < ports) → onEvent e s = .next s

/-- The invariants below hold after reset (R175, R254, R341; the ranges of R21, R24, R35, R36), whatever number of
slave units the instance has. -/
def Obligations.InvariantsHoldAtReset : Prop :=
  (MasterInv State.reset ∧ TimersInv State.reset ∧ SlavesInv State.reset ∧ RangesInv State.reset) ∧
    ∀ ports : Nat, let s := State.resetWith ports
      MasterInv s ∧ TimersInv s ∧ SlavesInv s ∧ RangesInv s

/-! ## Encodings -/

/-- Words written out from R91 to R93 and R104 decode to the instructions they stand for. -/
def Obligations.SpelledOutWordsDecode : Prop :=
  decodeTableWord 56 0x495302050000A3 = some (.reqRead 2 0 0 0xA3) ∧
    decodeTableWord 56 0x4953020605DC85 = some (.reqSet 2 1500 0x85) ∧
    decodeTableWord 56 0x4454020105DC7C = some (.rspAck 2 1500 0x7C) ∧
    decodeTableWord 72 0x4454020505DC011091 = some (.rspRead 2 1500 0x1001 0x91) ∧
    decodeTableWord 8 10 = some .pollStart ∧ decodeTableWord 8 31 = none ∧
    decodeTableWord 56 0x4953020105DC80 = none

/-- R100, R101: a word of 56 or 72 bits decodes to a frame instruction exactly where the table's mask finds its match;
on top of the mask, the checksum and, for a request, the SlaveId range decide whether it is a valid one. -/
def Obligations.MasksAndConditionsSelectTheFrames : Prop :=
  (∀ w < 2 ^ 56,
    ((w &&& 0xFFFF00FF000000 = 0x49530005000000) ↔
      ∃ id d1 d2 ck, decodeTableWord 56 w = some (.reqRead id d1 d2 ck)) ∧
    ((w &&& 0xFFFF00FF000000 = 0x49530006000000) ↔
      ∃ id rpm ck, decodeTableWord 56 w = some (.reqSet id rpm ck)) ∧
    ((w &&& 0xFFFF00FF000000 = 0x44540001000000) ↔
      ∃ id rpm ck, decodeTableWord 56 w = some (.rspAck id rpm ck))) ∧
    (∀ w < 2 ^ 72, (w &&& 0xFFFF00FF0000000000 = 0x445400050000000000) ↔
      ∃ id rpm alarm ck, decodeTableWord 72 w = some (.rspRead id rpm alarm ck)) ∧
    (∀ id cmd d1 d2 ck : Byte,
      let valid := ck.toNat = (0x49 + 0x53 + id.toNat + cmd.toNat + d1.toNat + d2.toNat) % 256 ∧
        1 ≤ id.toNat ∧ id.toNat ≤ 64
      ((∃ i, decode [0x49, 0x53, id, cmd, d1, d2, ck] = .ok (i, []) ∧ i.wellFormed = true) ↔
        valid ∧ (cmd = 0x05 ∨ cmd = 0x06)) ∧
      ((∃ r, decodeRequest [0x49, 0x53, id, cmd, d1, d2, ck] = .ok r) ↔ valid ∧ (cmd = 0x05 ∨ cmd = 0x06))) ∧
    ∀ (id cmd ck : Byte) (rpm alarm : Word16) (body : List Byte),
      ((Instr.rspAck id rpm ck).wellFormed = true ↔
        ck.toNat = (0x44 + 0x54 + id.toNat + 0x01 + rpm.toNat / 256 + rpm.toNat % 256) % 256) ∧
      ((Instr.rspRead id rpm alarm ck).wellFormed = true ↔
        ck.toNat = (0x44 + 0x54 + id.toNat + 0x05 + rpm.toNat / 256 + rpm.toNat % 256 + alarm.toNat % 256 +
          alarm.toNat / 256) % 256) ∧
      (cmd ≠ 0x01 → cmd ≠ 0x05 → decode (0x44 :: 0x54 :: id :: cmd :: body) = .error (.unknownCommand cmd))

/-- Decode and encode agree: every instruction, with every operand at every value, is read back from its bytes, and
the bytes after it are left; and a frame that decodes is the encoding of what it decodes to. -/
def Obligations.DecodeAndEncodeAgree : Prop :=
  (∀ (i : Instr) (rest : List Byte), decode (encode i ++ rest) = .ok (i, rest)) ∧
    ∀ (bytes rest : List Byte) (i : Instr), decode bytes = .ok (i, rest) → i.isHostOp = false →
      bytes = encode i ++ rest

/-! ## Invariants that every step keeps -/

/-- R175, R254: the lock follows the units' states, the request queue belongs to the sender and the receive buffer to
the receiver, and a cancel request is pending only while a transaction is in flight. -/
def Obligations.StepKeepsMasterInvariants : Prop :=
  ∀ s t : State, MasterInv s → step s = .next t → MasterInv t

/-- R341: "a unit is never left in a timed state with its timer at 0". -/
def Obligations.StepKeepsTimersRunning : Prop :=
  ∀ s t : State, TimersInv s → step s = .next t → TimersInv t

/-- R282 to R285, R290: every slave unit stays in order. -/
def Obligations.StepKeepsSlavesInOrder : Prop :=
  ∀ s t : State, SlavesInv s → step s = .next t → SlavesInv t

/-- R21, R24, R35, R36: the registers keep to their ranges, in every state whose lock follows the units' states. -/
def Obligations.StepKeepsRegisterRanges : Prop :=
  ∀ s t : State, MasterInv s → RangesInv s → step s = .next t → RangesInv t

/-- From R10, R39: no step takes back what was published, transmitted or returned, or changes the parameters or the
number of ports. -/
def Obligations.StepsOnlyExtendTheTraces : Prop :=
  ∀ s t : State, step s = .next t → Extends s t

/-- From R20 to R24 and R32: the map and the configuration registers change only by their own writers: an entry of the
map by LOAD_RPM of its id, or as the EV_ACK, EV_READ or EV_S_REQ that the same step publishes records, of a response
the master dispatched or a Set a slave received; MAXRPM by SET_MAXRPM, S_ALARM by SET_ALARM, IDSET by LOAD_IDSET or
the end of a scan, PEND by QUEUE_SET or a selection, the cursor by a selection. -/
def Obligations.ConfigurationHasItsOwnWriters : Prop :=
  ∀ s t : State, step s = .next t →
    (∀ a, 1 ≤ a → a ≤ 64 → readMap t a ≠ readMap s a →
      (∃ c rest id v left, s.inputs = .host c :: rest ∧ decode c = .ok (.loadRpm id v, left) ∧ id.toNat = a ∧
        readMap t a = v) ∨
        ∃ new e, t.evOut = s.evOut ++ new ∧ e ∈ new ∧ recordedRpm e = some (a, readMap t a)) ∧
    (t.maxRpm ≠ s.maxRpm → ∃ c rest v left, s.inputs = .host c :: rest ∧ decode c = .ok (.setMaxRpm v, left)) ∧
      (t.sAlarm ≠ s.sAlarm → ∃ c rest v left, s.inputs = .host c :: rest ∧ decode c = .ok (.setAlarm v, left)) ∧
      (t.idSet ≠ s.idSet →
        (∃ c rest v left, s.inputs = .host c :: rest ∧ decode c = .ok (.loadIdSet v, left)) ∨
          ∃ new, t.evOut = s.evOut ++ new ∧ .scanDone t.idSet ∈ new) ∧
      (t.pend ≠ s.pend →
        (∃ c rest id v left, s.inputs = .host c :: rest ∧ decode c = .ok (.queueSet id v, left)) ∨
          (s.lock = .free ∧ t.lock = .held .poll)) ∧
      (t.poll.cursor ≠ s.poll.cursor → s.lock = .free ∧ t.lock = .held .poll)

/-- From R219: the attempts a TRYSET has begun and those it may still begin stay `retries + 1` in sum until it ends;
when it ends with a failure, all of them have been sent. -/
def Obligations.SetAttemptsStayWithinTheBudget : Prop :=
  ∀ s t : State, MasterInv s → RangesInv s → s.sc.state ≠ .idle → attemptBudget s ≤ 256 → step s = .next t →
    (t.sc.state ≠ .idle → attemptBudget t = attemptBudget s) ∧
      (t.sc.state = .idle → t.sc.sent.toNat ≤ attemptBudget s ∧
        ∀ new, t.evOut = s.evOut ++ new → .setResult s.sc.id s.sc.rpm false ∈ new →
          t.sc.sent.toNat = attemptBudget s)
end

