-- ==== Sys2Proof/Laws/Bytes.lean ====
section
/-! SUPPORT. Byte splits and joins, the checksum, header seeking, and the operand codes read back. -/

namespace Sys2Proof

/-! ## Splits and joins (R131: exact and inverse to each other) -/

/-- `{hi, lo}` is `hi * 256 + lo` (R11). -/
theorem toNat_join16 (h l : Byte) : (join16 h l).toNat = h.toNat * 256 + l.toNat := by
  have := l.isLt
  simp only [join16, BitVec.toNat_append, Nat.shiftLeft_eq]
  rw [Nat.mul_comm, ← Nat.two_pow_add_eq_or_of_lt this]

theorem toNat_hi8 (v : Word16) : (hi8 v).toNat = v.toNat / 256 := by
  have := v.isLt
  simp [hi8, Nat.shiftRight_eq_div_pow]
  omega

theorem toNat_lo8 (v : Word16) : (lo8 v).toNat = v.toNat % 256 := by
  simp [lo8]

@[simp] theorem hi8_join16 (h l : Byte) : hi8 (join16 h l) = h := by
  have := h.isLt
  have := l.isLt
  apply BitVec.eq_of_toNat_eq
  rw [toNat_hi8, toNat_join16]
  omega

@[simp] theorem lo8_join16 (h l : Byte) : lo8 (join16 h l) = l := by
  have := l.isLt
  apply BitVec.eq_of_toNat_eq
  rw [toNat_lo8, toNat_join16]
  omega

@[simp] theorem join16_hi8_lo8 (v : Word16) : join16 (hi8 v) (lo8 v) = v := by
  apply BitVec.eq_of_toNat_eq
  rw [toNat_join16, toNat_hi8, toNat_lo8]
  omega

/-! ## The checksum -/

@[simp] theorem sum8_nil : sum8 [] = 0 := rfl
@[simp] theorem sum8_cons (b : Byte) (t : List Byte) : sum8 (b :: t) = b + sum8 t := rfl

/-- The sum of two sequences in a row is the sum of their sums. -/
theorem sum8_append (s t : List Byte) : sum8 (s ++ t) = sum8 s + sum8 t := by
  induction s with
  | nil => simp
  | cons b s ih => simp [ih, BitVec.add_assoc]

/-! ## Header seeking (R129) -/

@[simp] theorem resync_nil (m0 m1 : Byte) : resync m0 m1 [] = [] := rfl

/-- After seeking, the buffer is empty, is the first magic byte alone, or begins with the magic. -/
theorem resync_front (m0 m1 : Byte) (acc : List Byte) :
    resync m0 m1 acc = [] ∨ resync m0 m1 acc = [m0] ∨ ∃ rest, resync m0 m1 acc = m0 :: m1 :: rest := by
  fun_induction resync m0 m1 acc with
  | case1 => simp
  | case2 => simp
  | case3 a h => simp
  | case4 a b t h => exact .inr (.inr ⟨t, by simp [h.1, h.2]⟩)
  | case5 a b t h ih => exact ih

/-- Seeking drops bytes from the front only. -/
theorem resync_suffix (m0 m1 : Byte) (acc : List Byte) : resync m0 m1 acc <:+ acc := by
  fun_induction resync m0 m1 acc with
  | case1 => simp
  | case2 => simp
  | case3 a h => simp
  | case4 a b t h => simp
  | case5 a b t h ih => exact ih.trans (List.suffix_cons a (b :: t))

/-- A buffer that begins with the magic is left as it is. -/
@[simp] theorem resync_magic (m0 m1 : Byte) (rest : List Byte) :
    resync m0 m1 (m0 :: m1 :: rest) = m0 :: m1 :: rest := by
  simp [resync]

/-! ## Operand codes -/

/-- A natural number read back after its bytes. -/
theorem takeNat_encodeNatFuel (fuel n : Nat) (h : n ≤ fuel) (r : List Byte) :
    takeNat (encodeNatFuel fuel n ++ r) = some (n, r) := by
  induction fuel generalizing n with
  | zero =>
    have : n = 0 := by omega
    subst this
    rfl
  | succ fuel ih =>
    unfold encodeNatFuel
    split
    · rename_i h1
      simp [takeNat, Nat.mod_eq_of_lt (show n < 256 by omega), h1]
    · rename_i h1
      have h2 : (n % 128 + 128) % 256 = n % 128 + 128 := by omega
      have h3 : ¬ (n % 128 + 128 < 128) := by omega
      simp only [List.cons_append, takeNat, BitVec.toNat_ofNat, h2, h3, if_false, ih (n / 128) (by omega)]
      congr 2
      omega

@[simp] theorem takeNat_encodeNat (n : Nat) (r : List Byte) : takeNat (encodeNat n ++ r) = some (n, r) :=
  takeNat_encodeNatFuel n n (Nat.le_refl n) r

@[simp] theorem takeByte_cons (b : Byte) (r : List Byte) : takeByte (b :: r) = some (b, r) := rfl

@[simp] theorem takeWord_encodeWord (v : Word16) (r : List Byte) : takeWord (encodeWord v ++ r) = some (v, r) := by
  simp [takeWord, encodeWord]

@[simp] theorem takeMask_encodeMask (m : IdMask) (r : List Byte) : takeMask (encodeMask m ++ r) = some (m, r) := by
  simp only [encodeMask, List.cons_append, List.nil_append, takeMask]
  congr 2
  apply BitVec.eq_of_getLsbD_eq
  intro i hi
  simp only [BitVec.getLsbD_append, BitVec.getLsbD_extractLsb']
  repeat' split
  all_goals (rw [decide_eq_true (by omega), Bool.true_and]; congr 1; omega)

@[simp] theorem takeBytes_append (b r : List Byte) : takeBytes b.length (b ++ r) = some (b, r) := by
  simp [takeBytes]

end Sys2Proof
end

