-- ==== Sys2Proof/Laws/State.lean ====
section
/-! SUPPORT. One lemma for each field of the state and each shared update: what the field holds after it. -/

namespace Sys2Proof.Machine

/-! ## emit -/

@[simp] theorem emit_params (e : OutEvent) (s : State) :
    (emit e s).params = s.params := rfl
@[simp] theorem emit_rpmMap (e : OutEvent) (s : State) :
    (emit e s).rpmMap = s.rpmMap := rfl
@[simp] theorem emit_maxRpm (e : OutEvent) (s : State) :
    (emit e s).maxRpm = s.maxRpm := rfl
@[simp] theorem emit_idSet (e : OutEvent) (s : State) :
    (emit e s).idSet = s.idSet := rfl
@[simp] theorem emit_sAlarm (e : OutEvent) (s : State) :
    (emit e s).sAlarm = s.sAlarm := rfl
@[simp] theorem emit_pend (e : OutEvent) (s : State) :
    (emit e s).pend = s.pend := rfl
@[simp] theorem emit_lock (e : OutEvent) (s : State) :
    (emit e s).lock = s.lock := rfl
@[simp] theorem emit_mTxq (e : OutEvent) (s : State) :
    (emit e s).mTxq = s.mTxq := rfl
@[simp] theorem emit_mAcc (e : OutEvent) (s : State) :
    (emit e s).mAcc = s.mAcc := rfl
@[simp] theorem emit_txn (e : OutEvent) (s : State) :
    (emit e s).txn = s.txn := rfl
@[simp] theorem emit_poll (e : OutEvent) (s : State) :
    (emit e s).poll = s.poll := rfl
@[simp] theorem emit_sc (e : OutEvent) (s : State) :
    (emit e s).sc = s.sc := rfl
@[simp] theorem emit_scan (e : OutEvent) (s : State) :
    (emit e s).scan = s.scan := rfl
@[simp] theorem emit_slaves (e : OutEvent) (s : State) :
    (emit e s).slaves = s.slaves := rfl
@[simp] theorem emit_mTxOut (e : OutEvent) (s : State) :
    (emit e s).mTxOut = s.mTxOut := rfl
@[simp] theorem emit_evOut (e : OutEvent) (s : State) :
    (emit e s).evOut = s.evOut ++ [e] := rfl
@[simp] theorem emit_retOut (e : OutEvent) (s : State) :
    (emit e s).retOut = s.retOut := rfl
@[simp] theorem emit_inputs (e : OutEvent) (s : State) :
    (emit e s).inputs = s.inputs := rfl
@[simp] theorem emit_draws (e : OutEvent) (s : State) :
    (emit e s).draws = s.draws := rfl
@[simp] theorem emit_activePort (e : OutEvent) (s : State) :
    (emit e s).activePort = s.activePort := rfl
@[simp] theorem emit_freeCount (e : OutEvent) (s : State) :
    (emit e s).freeCount = s.freeCount := rfl

/-! ## raise -/

@[simp] theorem raise_params (e : Exc) (s : State) :
    (raise e s).params = s.params := rfl
@[simp] theorem raise_rpmMap (e : Exc) (s : State) :
    (raise e s).rpmMap = s.rpmMap := rfl
@[simp] theorem raise_maxRpm (e : Exc) (s : State) :
    (raise e s).maxRpm = s.maxRpm := rfl
@[simp] theorem raise_idSet (e : Exc) (s : State) :
    (raise e s).idSet = s.idSet := rfl
@[simp] theorem raise_sAlarm (e : Exc) (s : State) :
    (raise e s).sAlarm = s.sAlarm := rfl
@[simp] theorem raise_pend (e : Exc) (s : State) :
    (raise e s).pend = s.pend := rfl
@[simp] theorem raise_lock (e : Exc) (s : State) :
    (raise e s).lock = s.lock := rfl
@[simp] theorem raise_mTxq (e : Exc) (s : State) :
    (raise e s).mTxq = s.mTxq := rfl
@[simp] theorem raise_mAcc (e : Exc) (s : State) :
    (raise e s).mAcc = s.mAcc := rfl
@[simp] theorem raise_txn (e : Exc) (s : State) :
    (raise e s).txn = s.txn := rfl
@[simp] theorem raise_poll (e : Exc) (s : State) :
    (raise e s).poll = s.poll := rfl
@[simp] theorem raise_sc (e : Exc) (s : State) :
    (raise e s).sc = s.sc := rfl
@[simp] theorem raise_scan (e : Exc) (s : State) :
    (raise e s).scan = s.scan := rfl
@[simp] theorem raise_slaves (e : Exc) (s : State) :
    (raise e s).slaves = s.slaves := rfl
@[simp] theorem raise_mTxOut (e : Exc) (s : State) :
    (raise e s).mTxOut = s.mTxOut := rfl
@[simp] theorem raise_evOut (e : Exc) (s : State) :
    (raise e s).evOut = s.evOut ++ [e.event] := rfl
@[simp] theorem raise_retOut (e : Exc) (s : State) :
    (raise e s).retOut = s.retOut := rfl
@[simp] theorem raise_inputs (e : Exc) (s : State) :
    (raise e s).inputs = s.inputs := rfl
@[simp] theorem raise_draws (e : Exc) (s : State) :
    (raise e s).draws = s.draws := rfl
@[simp] theorem raise_activePort (e : Exc) (s : State) :
    (raise e s).activePort = s.activePort := rfl
@[simp] theorem raise_freeCount (e : Exc) (s : State) :
    (raise e s).freeCount = s.freeCount := rfl

/-! ## returnToHost -/

@[simp] theorem returnToHost_params (r : HostResult) (s : State) :
    (returnToHost r s).params = s.params := rfl
@[simp] theorem returnToHost_rpmMap (r : HostResult) (s : State) :
    (returnToHost r s).rpmMap = s.rpmMap := rfl
@[simp] theorem returnToHost_maxRpm (r : HostResult) (s : State) :
    (returnToHost r s).maxRpm = s.maxRpm := rfl
@[simp] theorem returnToHost_idSet (r : HostResult) (s : State) :
    (returnToHost r s).idSet = s.idSet := rfl
@[simp] theorem returnToHost_sAlarm (r : HostResult) (s : State) :
    (returnToHost r s).sAlarm = s.sAlarm := rfl
@[simp] theorem returnToHost_pend (r : HostResult) (s : State) :
    (returnToHost r s).pend = s.pend := rfl
@[simp] theorem returnToHost_lock (r : HostResult) (s : State) :
    (returnToHost r s).lock = s.lock := rfl
@[simp] theorem returnToHost_mTxq (r : HostResult) (s : State) :
    (returnToHost r s).mTxq = s.mTxq := rfl
@[simp] theorem returnToHost_mAcc (r : HostResult) (s : State) :
    (returnToHost r s).mAcc = s.mAcc := rfl
@[simp] theorem returnToHost_txn (r : HostResult) (s : State) :
    (returnToHost r s).txn = s.txn := rfl
@[simp] theorem returnToHost_poll (r : HostResult) (s : State) :
    (returnToHost r s).poll = s.poll := rfl
@[simp] theorem returnToHost_sc (r : HostResult) (s : State) :
    (returnToHost r s).sc = s.sc := rfl
@[simp] theorem returnToHost_scan (r : HostResult) (s : State) :
    (returnToHost r s).scan = s.scan := rfl
@[simp] theorem returnToHost_slaves (r : HostResult) (s : State) :
    (returnToHost r s).slaves = s.slaves := rfl
@[simp] theorem returnToHost_mTxOut (r : HostResult) (s : State) :
    (returnToHost r s).mTxOut = s.mTxOut := rfl
@[simp] theorem returnToHost_evOut (r : HostResult) (s : State) :
    (returnToHost r s).evOut = s.evOut := rfl
@[simp] theorem returnToHost_retOut (r : HostResult) (s : State) :
    (returnToHost r s).retOut = s.retOut ++ [r] := rfl
@[simp] theorem returnToHost_inputs (r : HostResult) (s : State) :
    (returnToHost r s).inputs = s.inputs := rfl
@[simp] theorem returnToHost_draws (r : HostResult) (s : State) :
    (returnToHost r s).draws = s.draws := rfl
@[simp] theorem returnToHost_activePort (r : HostResult) (s : State) :
    (returnToHost r s).activePort = s.activePort := rfl
@[simp] theorem returnToHost_freeCount (r : HostResult) (s : State) :
    (returnToHost r s).freeCount = s.freeCount := rfl

/-! ## setSlave -/

@[simp] theorem setSlave_params (p : Nat) (u : Slave) (s : State) :
    (setSlave p u s).params = s.params := rfl
@[simp] theorem setSlave_rpmMap (p : Nat) (u : Slave) (s : State) :
    (setSlave p u s).rpmMap = s.rpmMap := rfl
@[simp] theorem setSlave_maxRpm (p : Nat) (u : Slave) (s : State) :
    (setSlave p u s).maxRpm = s.maxRpm := rfl
@[simp] theorem setSlave_idSet (p : Nat) (u : Slave) (s : State) :
    (setSlave p u s).idSet = s.idSet := rfl
@[simp] theorem setSlave_sAlarm (p : Nat) (u : Slave) (s : State) :
    (setSlave p u s).sAlarm = s.sAlarm := rfl
@[simp] theorem setSlave_pend (p : Nat) (u : Slave) (s : State) :
    (setSlave p u s).pend = s.pend := rfl
@[simp] theorem setSlave_lock (p : Nat) (u : Slave) (s : State) :
    (setSlave p u s).lock = s.lock := rfl
@[simp] theorem setSlave_mTxq (p : Nat) (u : Slave) (s : State) :
    (setSlave p u s).mTxq = s.mTxq := rfl
@[simp] theorem setSlave_mAcc (p : Nat) (u : Slave) (s : State) :
    (setSlave p u s).mAcc = s.mAcc := rfl
@[simp] theorem setSlave_txn (p : Nat) (u : Slave) (s : State) :
    (setSlave p u s).txn = s.txn := rfl
@[simp] theorem setSlave_poll (p : Nat) (u : Slave) (s : State) :
    (setSlave p u s).poll = s.poll := rfl
@[simp] theorem setSlave_sc (p : Nat) (u : Slave) (s : State) :
    (setSlave p u s).sc = s.sc := rfl
@[simp] theorem setSlave_scan (p : Nat) (u : Slave) (s : State) :
    (setSlave p u s).scan = s.scan := rfl
@[simp] theorem setSlave_slaves (p : Nat) (u : Slave) (s : State) :
    (setSlave p u s).slaves = s.slaves.set p u := rfl
@[simp] theorem setSlave_mTxOut (p : Nat) (u : Slave) (s : State) :
    (setSlave p u s).mTxOut = s.mTxOut := rfl
@[simp] theorem setSlave_evOut (p : Nat) (u : Slave) (s : State) :
    (setSlave p u s).evOut = s.evOut := rfl
@[simp] theorem setSlave_retOut (p : Nat) (u : Slave) (s : State) :
    (setSlave p u s).retOut = s.retOut := rfl
@[simp] theorem setSlave_inputs (p : Nat) (u : Slave) (s : State) :
    (setSlave p u s).inputs = s.inputs := rfl
@[simp] theorem setSlave_draws (p : Nat) (u : Slave) (s : State) :
    (setSlave p u s).draws = s.draws := rfl
@[simp] theorem setSlave_activePort (p : Nat) (u : Slave) (s : State) :
    (setSlave p u s).activePort = s.activePort := rfl
@[simp] theorem setSlave_freeCount (p : Nat) (u : Slave) (s : State) :
    (setSlave p u s).freeCount = s.freeCount := rfl

/-! ## countFree -/

@[simp] theorem countFree_params (s : State) :
    (countFree s).params = s.params := rfl
@[simp] theorem countFree_rpmMap (s : State) :
    (countFree s).rpmMap = s.rpmMap := rfl
@[simp] theorem countFree_maxRpm (s : State) :
    (countFree s).maxRpm = s.maxRpm := rfl
@[simp] theorem countFree_idSet (s : State) :
    (countFree s).idSet = s.idSet := rfl
@[simp] theorem countFree_sAlarm (s : State) :
    (countFree s).sAlarm = s.sAlarm := rfl
@[simp] theorem countFree_pend (s : State) :
    (countFree s).pend = s.pend := rfl
@[simp] theorem countFree_lock (s : State) :
    (countFree s).lock = s.lock := rfl
@[simp] theorem countFree_mTxq (s : State) :
    (countFree s).mTxq = s.mTxq := rfl
@[simp] theorem countFree_mAcc (s : State) :
    (countFree s).mAcc = s.mAcc := rfl
@[simp] theorem countFree_txn (s : State) :
    (countFree s).txn = s.txn := rfl
@[simp] theorem countFree_poll (s : State) :
    (countFree s).poll = s.poll := rfl
@[simp] theorem countFree_sc (s : State) :
    (countFree s).sc = s.sc := rfl
@[simp] theorem countFree_scan (s : State) :
    (countFree s).scan = s.scan := rfl
@[simp] theorem countFree_slaves (s : State) :
    (countFree s).slaves = s.slaves := rfl
@[simp] theorem countFree_mTxOut (s : State) :
    (countFree s).mTxOut = s.mTxOut := rfl
@[simp] theorem countFree_evOut (s : State) :
    (countFree s).evOut = s.evOut := rfl
@[simp] theorem countFree_retOut (s : State) :
    (countFree s).retOut = s.retOut := rfl
@[simp] theorem countFree_inputs (s : State) :
    (countFree s).inputs = s.inputs := rfl
@[simp] theorem countFree_draws (s : State) :
    (countFree s).draws = s.draws := rfl
@[simp] theorem countFree_activePort (s : State) :
    (countFree s).activePort = s.activePort := rfl
@[simp] theorem countFree_freeCount (s : State) :
    (countFree s).freeCount = s.freeCount + 1 := rfl

/-! ## endTxn -/

@[simp] theorem endTxn_params (u : MasterUnit) (rsp : List Byte) (b c : Bool) (s : State) :
    (endTxn u rsp b c s).params = s.params := rfl
@[simp] theorem endTxn_rpmMap (u : MasterUnit) (rsp : List Byte) (b c : Bool) (s : State) :
    (endTxn u rsp b c s).rpmMap = s.rpmMap := rfl
@[simp] theorem endTxn_maxRpm (u : MasterUnit) (rsp : List Byte) (b c : Bool) (s : State) :
    (endTxn u rsp b c s).maxRpm = s.maxRpm := rfl
@[simp] theorem endTxn_idSet (u : MasterUnit) (rsp : List Byte) (b c : Bool) (s : State) :
    (endTxn u rsp b c s).idSet = s.idSet := rfl
@[simp] theorem endTxn_sAlarm (u : MasterUnit) (rsp : List Byte) (b c : Bool) (s : State) :
    (endTxn u rsp b c s).sAlarm = s.sAlarm := rfl
@[simp] theorem endTxn_pend (u : MasterUnit) (rsp : List Byte) (b c : Bool) (s : State) :
    (endTxn u rsp b c s).pend = s.pend := rfl
@[simp] theorem endTxn_lock (u : MasterUnit) (rsp : List Byte) (b c : Bool) (s : State) :
    (endTxn u rsp b c s).lock = .free := rfl
@[simp] theorem endTxn_mTxq (u : MasterUnit) (rsp : List Byte) (b c : Bool) (s : State) :
    (endTxn u rsp b c s).mTxq = [] := rfl
@[simp] theorem endTxn_mAcc (u : MasterUnit) (rsp : List Byte) (b c : Bool) (s : State) :
    (endTxn u rsp b c s).mAcc = [] := rfl
@[simp] theorem endTxn_txn (u : MasterUnit) (rsp : List Byte) (b c : Bool) (s : State) :
    (endTxn u rsp b c s).txn = s.txn := rfl
@[simp] theorem endTxn_poll (u : MasterUnit) (rsp : List Byte) (b c : Bool) (s : State) :
    (endTxn u rsp b c s).poll = s.poll := rfl
@[simp] theorem endTxn_sc (u : MasterUnit) (rsp : List Byte) (b c : Bool) (s : State) :
    (endTxn u rsp b c s).sc = s.sc := rfl
@[simp] theorem endTxn_scan (u : MasterUnit) (rsp : List Byte) (b c : Bool) (s : State) :
    (endTxn u rsp b c s).scan = s.scan := rfl
@[simp] theorem endTxn_slaves (u : MasterUnit) (rsp : List Byte) (b c : Bool) (s : State) :
    (endTxn u rsp b c s).slaves = s.slaves := rfl
@[simp] theorem endTxn_mTxOut (u : MasterUnit) (rsp : List Byte) (b c : Bool) (s : State) :
    (endTxn u rsp b c s).mTxOut = s.mTxOut := rfl
@[simp] theorem endTxn_evOut (u : MasterUnit) (rsp : List Byte) (b c : Bool) (s : State) :
    (endTxn u rsp b c s).evOut = s.evOut ++ [.txn u (byteAt s.txn.req 2) s.txn.req rsp s.txn.elapsed b c] := rfl
@[simp] theorem endTxn_retOut (u : MasterUnit) (rsp : List Byte) (b c : Bool) (s : State) :
    (endTxn u rsp b c s).retOut = s.retOut := rfl
@[simp] theorem endTxn_inputs (u : MasterUnit) (rsp : List Byte) (b c : Bool) (s : State) :
    (endTxn u rsp b c s).inputs = s.inputs := rfl
@[simp] theorem endTxn_draws (u : MasterUnit) (rsp : List Byte) (b c : Bool) (s : State) :
    (endTxn u rsp b c s).draws = s.draws := rfl
@[simp] theorem endTxn_activePort (u : MasterUnit) (rsp : List Byte) (b c : Bool) (s : State) :
    (endTxn u rsp b c s).activePort = s.activePort := rfl
@[simp] theorem endTxn_freeCount (u : MasterUnit) (rsp : List Byte) (b c : Bool) (s : State) :
    (endTxn u rsp b c s).freeCount = s.freeCount := rfl

/-! ## beginTxn -/

@[simp] theorem beginTxn_params (u : MasterUnit) (f : List Byte) (s : State) :
    (beginTxn u f s).params = s.params := by cases u <;> rfl
@[simp] theorem beginTxn_rpmMap (u : MasterUnit) (f : List Byte) (s : State) :
    (beginTxn u f s).rpmMap = s.rpmMap := by cases u <;> rfl
@[simp] theorem beginTxn_maxRpm (u : MasterUnit) (f : List Byte) (s : State) :
    (beginTxn u f s).maxRpm = s.maxRpm := by cases u <;> rfl
@[simp] theorem beginTxn_idSet (u : MasterUnit) (f : List Byte) (s : State) :
    (beginTxn u f s).idSet = s.idSet := by cases u <;> rfl
@[simp] theorem beginTxn_sAlarm (u : MasterUnit) (f : List Byte) (s : State) :
    (beginTxn u f s).sAlarm = s.sAlarm := by cases u <;> rfl
@[simp] theorem beginTxn_pend (u : MasterUnit) (f : List Byte) (s : State) :
    (beginTxn u f s).pend = s.pend := by cases u <;> rfl
@[simp] theorem beginTxn_lock (u : MasterUnit) (f : List Byte) (s : State) :
    (beginTxn u f s).lock = .held u := by cases u <;> rfl
@[simp] theorem beginTxn_mTxq (u : MasterUnit) (f : List Byte) (s : State) :
    (beginTxn u f s).mTxq = f := by cases u <;> rfl
@[simp] theorem beginTxn_mAcc (u : MasterUnit) (f : List Byte) (s : State) :
    (beginTxn u f s).mAcc = s.mAcc := by cases u <;> rfl
@[simp] theorem beginTxn_txn (u : MasterUnit) (f : List Byte) (s : State) :
    (beginTxn u f s).txn = { s.txn with req := f } := by cases u <;> rfl
@[simp] theorem beginTxn_slaves (u : MasterUnit) (f : List Byte) (s : State) :
    (beginTxn u f s).slaves = s.slaves := by cases u <;> rfl
@[simp] theorem beginTxn_mTxOut (u : MasterUnit) (f : List Byte) (s : State) :
    (beginTxn u f s).mTxOut = s.mTxOut := by cases u <;> rfl
@[simp] theorem beginTxn_evOut (u : MasterUnit) (f : List Byte) (s : State) :
    (beginTxn u f s).evOut = s.evOut := by cases u <;> rfl
@[simp] theorem beginTxn_retOut (u : MasterUnit) (f : List Byte) (s : State) :
    (beginTxn u f s).retOut = s.retOut := by cases u <;> rfl
@[simp] theorem beginTxn_inputs (u : MasterUnit) (f : List Byte) (s : State) :
    (beginTxn u f s).inputs = s.inputs := by cases u <;> rfl
@[simp] theorem beginTxn_draws (u : MasterUnit) (f : List Byte) (s : State) :
    (beginTxn u f s).draws = s.draws := by cases u <;> rfl
@[simp] theorem beginTxn_activePort (u : MasterUnit) (f : List Byte) (s : State) :
    (beginTxn u f s).activePort = s.activePort := by cases u <;> rfl
@[simp] theorem beginTxn_freeCount (u : MasterUnit) (f : List Byte) (s : State) :
    (beginTxn u f s).freeCount = s.freeCount := by cases u <;> rfl

@[simp] theorem beginTxn_poll_poll (f : List Byte) (s : State) :
    (beginTxn .poll f s).poll = { s.poll with state := .transmitting } := rfl
@[simp] theorem beginTxn_poll_sc (f : List Byte) (s : State) :
    (beginTxn .poll f s).sc = s.sc := rfl
@[simp] theorem beginTxn_poll_scan (f : List Byte) (s : State) :
    (beginTxn .poll f s).scan = s.scan := rfl
@[simp] theorem beginTxn_sc_poll (f : List Byte) (s : State) :
    (beginTxn .sc f s).poll = s.poll := rfl
@[simp] theorem beginTxn_sc_sc (f : List Byte) (s : State) :
    (beginTxn .sc f s).sc = { s.sc with state := .transmit } := rfl
@[simp] theorem beginTxn_sc_scan (f : List Byte) (s : State) :
    (beginTxn .sc f s).scan = s.scan := rfl
@[simp] theorem beginTxn_scan_poll (f : List Byte) (s : State) :
    (beginTxn .scan f s).poll = s.poll := rfl
@[simp] theorem beginTxn_scan_sc (f : List Byte) (s : State) :
    (beginTxn .scan f s).sc = s.sc := rfl
@[simp] theorem beginTxn_scan_scan (f : List Byte) (s : State) :
    (beginTxn .scan f s).scan = { s.scan with state := .transmit } := rfl

/-! ## afterDraw -/

@[simp] theorem afterDraw_params (s : State) :
    (afterDraw s).params = s.params := by unfold afterDraw; split <;> simp_all [countFree]
@[simp] theorem afterDraw_rpmMap (s : State) :
    (afterDraw s).rpmMap = s.rpmMap := by unfold afterDraw; split <;> simp_all [countFree]
@[simp] theorem afterDraw_maxRpm (s : State) :
    (afterDraw s).maxRpm = s.maxRpm := by unfold afterDraw; split <;> simp_all [countFree]
@[simp] theorem afterDraw_idSet (s : State) :
    (afterDraw s).idSet = s.idSet := by unfold afterDraw; split <;> simp_all [countFree]
@[simp] theorem afterDraw_sAlarm (s : State) :
    (afterDraw s).sAlarm = s.sAlarm := by unfold afterDraw; split <;> simp_all [countFree]
@[simp] theorem afterDraw_pend (s : State) :
    (afterDraw s).pend = s.pend := by unfold afterDraw; split <;> simp_all [countFree]
@[simp] theorem afterDraw_lock (s : State) :
    (afterDraw s).lock = s.lock := by unfold afterDraw; split <;> simp_all [countFree]
@[simp] theorem afterDraw_mTxq (s : State) :
    (afterDraw s).mTxq = s.mTxq := by unfold afterDraw; split <;> simp_all [countFree]
@[simp] theorem afterDraw_mAcc (s : State) :
    (afterDraw s).mAcc = s.mAcc := by unfold afterDraw; split <;> simp_all [countFree]
@[simp] theorem afterDraw_txn (s : State) :
    (afterDraw s).txn = s.txn := by unfold afterDraw; split <;> simp_all [countFree]
@[simp] theorem afterDraw_poll (s : State) :
    (afterDraw s).poll = s.poll := by unfold afterDraw; split <;> simp_all [countFree]
@[simp] theorem afterDraw_sc (s : State) :
    (afterDraw s).sc = s.sc := by unfold afterDraw; split <;> simp_all [countFree]
@[simp] theorem afterDraw_scan (s : State) :
    (afterDraw s).scan = s.scan := by unfold afterDraw; split <;> simp_all [countFree]
@[simp] theorem afterDraw_slaves (s : State) :
    (afterDraw s).slaves = s.slaves := by unfold afterDraw; split <;> simp_all [countFree]
@[simp] theorem afterDraw_mTxOut (s : State) :
    (afterDraw s).mTxOut = s.mTxOut := by unfold afterDraw; split <;> simp_all [countFree]
@[simp] theorem afterDraw_evOut (s : State) :
    (afterDraw s).evOut = s.evOut := by unfold afterDraw; split <;> simp_all [countFree]
@[simp] theorem afterDraw_retOut (s : State) :
    (afterDraw s).retOut = s.retOut := by unfold afterDraw; split <;> simp_all [countFree]
@[simp] theorem afterDraw_inputs (s : State) :
    (afterDraw s).inputs = s.inputs := by unfold afterDraw; split <;> simp_all [countFree]
@[simp] theorem afterDraw_draws (s : State) :
    (afterDraw s).draws = s.draws.tail := by unfold afterDraw; split <;> simp_all [countFree]
@[simp] theorem afterDraw_activePort (s : State) :
    (afterDraw s).activePort = s.activePort := by unfold afterDraw; split <;> simp_all [countFree]

/-! ## writeMap -/

@[simp] theorem writeMap_params (id : Nat) (v : Word16) (s : State) :
    (writeMap id v s).params = s.params := by unfold writeMap; split <;> rfl
@[simp] theorem writeMap_maxRpm (id : Nat) (v : Word16) (s : State) :
    (writeMap id v s).maxRpm = s.maxRpm := by unfold writeMap; split <;> rfl
@[simp] theorem writeMap_idSet (id : Nat) (v : Word16) (s : State) :
    (writeMap id v s).idSet = s.idSet := by unfold writeMap; split <;> rfl
@[simp] theorem writeMap_sAlarm (id : Nat) (v : Word16) (s : State) :
    (writeMap id v s).sAlarm = s.sAlarm := by unfold writeMap; split <;> rfl
@[simp] theorem writeMap_pend (id : Nat) (v : Word16) (s : State) :
    (writeMap id v s).pend = s.pend := by unfold writeMap; split <;> rfl
@[simp] theorem writeMap_lock (id : Nat) (v : Word16) (s : State) :
    (writeMap id v s).lock = s.lock := by unfold writeMap; split <;> rfl
@[simp] theorem writeMap_mTxq (id : Nat) (v : Word16) (s : State) :
    (writeMap id v s).mTxq = s.mTxq := by unfold writeMap; split <;> rfl
@[simp] theorem writeMap_mAcc (id : Nat) (v : Word16) (s : State) :
    (writeMap id v s).mAcc = s.mAcc := by unfold writeMap; split <;> rfl
@[simp] theorem writeMap_txn (id : Nat) (v : Word16) (s : State) :
    (writeMap id v s).txn = s.txn := by unfold writeMap; split <;> rfl
@[simp] theorem writeMap_poll (id : Nat) (v : Word16) (s : State) :
    (writeMap id v s).poll = s.poll := by unfold writeMap; split <;> rfl
@[simp] theorem writeMap_sc (id : Nat) (v : Word16) (s : State) :
    (writeMap id v s).sc = s.sc := by unfold writeMap; split <;> rfl
@[simp] theorem writeMap_scan (id : Nat) (v : Word16) (s : State) :
    (writeMap id v s).scan = s.scan := by unfold writeMap; split <;> rfl
@[simp] theorem writeMap_slaves (id : Nat) (v : Word16) (s : State) :
    (writeMap id v s).slaves = s.slaves := by unfold writeMap; split <;> rfl
@[simp] theorem writeMap_mTxOut (id : Nat) (v : Word16) (s : State) :
    (writeMap id v s).mTxOut = s.mTxOut := by unfold writeMap; split <;> rfl
@[simp] theorem writeMap_evOut (id : Nat) (v : Word16) (s : State) :
    (writeMap id v s).evOut = s.evOut := by unfold writeMap; split <;> rfl
@[simp] theorem writeMap_retOut (id : Nat) (v : Word16) (s : State) :
    (writeMap id v s).retOut = s.retOut := by unfold writeMap; split <;> rfl
@[simp] theorem writeMap_inputs (id : Nat) (v : Word16) (s : State) :
    (writeMap id v s).inputs = s.inputs := by unfold writeMap; split <;> rfl
@[simp] theorem writeMap_draws (id : Nat) (v : Word16) (s : State) :
    (writeMap id v s).draws = s.draws := by unfold writeMap; split <;> rfl
@[simp] theorem writeMap_activePort (id : Nat) (v : Word16) (s : State) :
    (writeMap id v s).activePort = s.activePort := by unfold writeMap; split <;> rfl
@[simp] theorem writeMap_freeCount (id : Nat) (v : Word16) (s : State) :
    (writeMap id v s).freeCount = s.freeCount := by unfold writeMap; split <;> rfl

end Sys2Proof.Machine
end

