-- ==== Sys2Proof/Laws/Ops.lean ====
section
/-! SUPPORT. What each shared operation can do, said once. -/

namespace Sys2Proof.Machine

/-! ## Outcomes -/

@[simp] theorem andThen_next (s : State) (f : State → Result) : andThen (.next s) f = f s := rfl
@[simp] theorem andThen_fault (e : Fault) (f : State → Result) : andThen (.fault e) f = .fault e := rfl
@[simp] theorem andThen_refused (e : Refusal) (f : State → Result) : andThen (.refused e) f = .refused e := rfl

/-- Two steps in sequence answer a next state exactly through an intermediate one. -/
theorem andThen_eq_next {r : Result} {f : State → Result} {t : State} :
    andThen r f = .next t ↔ ∃ m, r = .next m ∧ f m = .next t := by
  cases r <;> simp [andThen]

/-- Acting on a slave unit answers a next state exactly where the port exists and the action does. -/
theorem withSlave_eq_next {p : Nat} {s : State} {f : Slave → Result} {t : State} :
    withSlave p s f = .next t ↔ ∃ u, s.slaves[p]? = some u ∧ f u = .next t := by
  unfold withSlave
  split <;> simp_all

theorem withSlave_of_some {p : Nat} {s : State} {u : Slave} (h : s.slaves[p]? = some u) (f : Slave → Result) :
    withSlave p s f = f u := by
  unfold withSlave
  rw [h]

/-! ## Slave units -/

@[simp] theorem setSlave_length (p : Nat) (u : Slave) (s : State) :
    (setSlave p u s).slaves.length = s.slaves.length := by simp

/-- The unit read back is the one written. -/
theorem getElem?_setSlave_self {p : Nat} {s : State} {v : Slave} (u : Slave) (h : s.slaves[p]? = some v) :
    (setSlave p u s).slaves[p]? = some u := by
  have hp : p < s.slaves.length := (List.getElem?_eq_some_iff.mp h).1
  simp [hp]

/-- Every other unit is left alone. -/
theorem getElem?_setSlave_other {p q : Nat} (u : Slave) (s : State) (h : p ≠ q) :
    (setSlave p u s).slaves[q]? = s.slaves[q]? := by
  simp [h]

/-- A unit of the state after a write is the written one or one of those before. -/
theorem mem_setSlave {p : Nat} {u v : Slave} {s : State} (h : v ∈ (setSlave p u s).slaves) :
    v = u ∨ v ∈ s.slaves := by
  simp only [setSlave_slaves] at h
  exact (List.mem_or_eq_of_mem_set h).symm

/-- Writing a unit twice keeps the second. -/
@[simp] theorem setSlave_setSlave (p : Nat) (u v : Slave) (s : State) :
    setSlave p v (setSlave p u s) = setSlave p v s := by
  simp [setSlave]

/-! ## The RPM map -/

/-- An entry that is written reads back as written. -/
theorem readMap_writeMap_self {id : Nat} (v : Word16) (s : State) (h : 1 ≤ id ∧ id ≤ 64) :
    readMap (writeMap id v s) id = v := by
  have h' : idMin ≤ id ∧ id ≤ idMax := h
  have h1 : id - 1 < 64 := by omega
  simp [readMap, writeMap, h', List.getD, h1]

/-- A write leaves every other entry alone. -/
theorem readMap_writeMap_other {id a : Nat} (v : Word16) (s : State) (ha : 1 ≤ a) (h : a ≠ id) :
    readMap (writeMap id v s) a = readMap s a := by
  unfold writeMap
  split
  · rename_i h'
    have h1 : idMin ≤ id := h'.1
    have h2 : id - 1 ≠ a - 1 := by simp only [idMin] at h1; omega
    simp [readMap, List.getD, h2]
  · rfl

/-- An id the map has no entry for writes nothing. -/
theorem writeMap_outside {id : Nat} (v : Word16) (s : State) (h : ¬(1 ≤ id ∧ id ≤ 64)) :
    writeMap id v s = s := by
  unfold writeMap
  exact dif_neg h

theorem readMap_congr {s t : State} (h : t.rpmMap = s.rpmMap) (a : Nat) : readMap t a = readMap s a := by
  simp [readMap, h]

/-- An event published is one of those published since any earlier point. -/
theorem mem_drop_of_prefix {l m n : List OutEvent} (h : l <+: m) (k : m <+: n) {e : OutEvent}
    (he : e ∈ m.drop l.length) : e ∈ n.drop l.length := by
  obtain ⟨x, rfl⟩ := h
  obtain ⟨y, rfl⟩ := k
  simp at he ⊢
  exact .inl he

theorem MapFollows.refl (s : State) : MapFollows s s := .inl rfl

theorem MapFollows.trans {s t r : State} (h : MapFollows s t) (k : MapFollows t r) (hs : s.evOut <+: t.evOut)
    (ht : t.evOut <+: r.evOut) : MapFollows s r := by
  rcases k with k | k
  · rcases h with h | h
    · exact .inl (k.trans h)
    · refine .inr fun a h1 h2 => ?_
      rw [readMap_congr k]
      rcases h a h1 h2 with h | ⟨e, he, h⟩
      · exact .inl h
      · exact .inr ⟨e, mem_drop_of_prefix hs ht he, h⟩
  · refine .inr fun a h1 h2 => ?_
    rcases k a h1 h2 with k | ⟨e, he, k⟩
    · rcases h with h | h
      · exact .inl (k.trans (readMap_congr h a))
      · rcases h a h1 h2 with h | ⟨e, he, h⟩
        · exact .inl (k.trans h)
        · exact .inr ⟨e, mem_drop_of_prefix hs ht he, by rw [h, k]⟩
    · refine .inr ⟨e, ?_, k⟩
      obtain ⟨x, hx⟩ := hs
      obtain ⟨y, hy⟩ := ht
      rw [← hy] at he ⊢
      rw [← hx] at he ⊢
      simp at he ⊢
      exact .inr he

/-- An entry is written and the event that records it published (R167, R287). -/
theorem MapFollows.of_record {id : Byte} {v : Word16} {e : OutEvent} (s : State)
    (h : recordedRpm e = some (id.toNat, v)) : MapFollows s (emit e (writeMap id.toNat v s)) := by
  refine .inr fun a h1 h2 => ?_
  rw [readMap_congr (emit_rpmMap e _)]
  by_cases ha : a = id.toNat
  · subst ha
    rw [readMap_writeMap_self v s ⟨h1, h2⟩]
    exact .inr ⟨e, by simp, h⟩
  · exact .inl (readMap_writeMap_other v s h1 ha)

/-! ## Id sets -/

/-- The empty set is the one with no member (R22). -/
theorem setSize_eq_zero (m : IdMask) : setSize m = 0 ↔ m = 0 := by
  simp only [setSize, members, List.length_map, List.length_eq_zero_iff, List.filter_eq_nil_iff, List.mem_range]
  constructor
  · intro h
    apply BitVec.eq_of_getLsbD_eq
    intro i hi
    simpa using h i hi
  · rintro rfl
    simp

/-! ## Draws -/

/-- A drawn delay is within the bounds (R288), whoever draws it. -/
theorem drawDelay_bounds (s : State) (h : s.params.slaveDelayMin.toNat ≤ s.params.slaveDelayMax.toNat) :
    s.params.slaveDelayMin.toNat ≤ (drawDelay s).toNat ∧ (drawDelay s).toNat ≤ s.params.slaveDelayMax.toNat := by
  have key : ∀ d : Word16, s.params.slaveDelayMin.toNat ≤ (clampDelay s.params d).toNat ∧
      (clampDelay s.params d).toNat ≤ s.params.slaveDelayMax.toNat := by
    intro d
    have hmax := s.params.slaveDelayMax.isLt
    have : clamp d.toNat s.params.slaveDelayMin.toNat s.params.slaveDelayMax.toNat < 2 ^ 16 := by
      unfold clamp; split <;> (try split) <;> omega
    simp only [clampDelay, BitVec.toNat_ofNat, Nat.mod_eq_of_lt this]
    unfold clamp; split <;> (try split) <;> omega
  unfold drawDelay
  split <;> exact key _

end Sys2Proof.Machine
end

