-- ==== Sys2Proof/Laws/Master.lean ====
section
/-! SUPPORT. The master side: what its operations leave alone, and which unit's registers each of them writes. -/

namespace Sys2Proof.Machine

/-! ## What every master operation leaves alone -/

/-- The slave units, the slave's alarm word, the configuration no master unit writes and the model's own fields are the
same; the RPM map follows the events published, and the traces only grow. -/
structure MasterFrame (s t : State) : Prop where
  map : MapFollows s t
  params : t.params = s.params
  maxRpm : t.maxRpm = s.maxRpm
  sAlarm : t.sAlarm = s.sAlarm
  slaves : t.slaves = s.slaves
  retOut : t.retOut = s.retOut
  inputs : t.inputs = s.inputs
  draws : t.draws = s.draws
  activePort : t.activePort = s.activePort
  freeCount : t.freeCount = s.freeCount
  evOut : s.evOut <+: t.evOut
  mTxOut : s.mTxOut <+: t.mTxOut

theorem MasterFrame.refl (s : State) : MasterFrame s s := by
  constructor <;> simp [MapFollows]

theorem MasterFrame.trans {s t r : State} (h : MasterFrame s t) (k : MasterFrame t r) : MasterFrame s r := by
  constructor
  case map => exact h.map.trans k.map h.evOut k.evOut
  case evOut => exact h.evOut.trans k.evOut
  case mTxOut => exact h.mTxOut.trans k.mTxOut
  all_goals first
    | exact k.params.trans h.params | exact k.maxRpm.trans h.maxRpm | exact k.sAlarm.trans h.sAlarm
    | exact k.slaves.trans h.slaves | exact k.retOut.trans h.retOut | exact k.inputs.trans h.inputs
    | exact k.draws.trans h.draws | exact k.activePort.trans h.activePort | exact k.freeCount.trans h.freeCount

/-- A write of the registers that only the master side has. -/
theorem MasterFrame.of_registers (s : State) (pend : Pending) (lock : Lock) (q a : List Byte) (txn : Txn)
    (poll : Poll) (sc : SetConfirm) (scan : Scan) (ids : IdMask) :
    MasterFrame s { s with pend := pend, lock := lock, mTxq := q, mAcc := a, txn := txn, poll := poll, sc := sc,
                           scan := scan, idSet := ids } := by
  constructor <;> simp [MapFollows]

theorem emit_frame (e : OutEvent) (s : State) : MasterFrame s (emit e s) := by
  constructor <;> simp [MapFollows]

theorem raise_frame (e : Exc) (s : State) : MasterFrame s (raise e s) := emit_frame _ s

theorem endTxn_frame (u : MasterUnit) (r : List Byte) (t e : Bool) (s : State) :
    MasterFrame s (endTxn u r t e s) := by
  constructor <;> simp [MapFollows]

theorem beginTxn_frame (u : MasterUnit) (f : List Byte) (s : State) : MasterFrame s (beginTxn u f s) := by
  cases u <;> (constructor <;> simp [MapFollows, beginTxn, enterTransmit])

theorem dispatchResponse_frame (p : ParsedResponse) (s : State) : MasterFrame s (dispatchResponse p s) := by
  cases p <;> (constructor <;> first | exact MapFollows.of_record s rfl | simp [dispatchResponse])

theorem enterSleep_frame (d : Word16) (s : State) : MasterFrame s (enterSleep d s) := by
  unfold enterSleep
  split <;> (constructor <;> simp [MapFollows])

theorem finishScan_frame (s : State) : MasterFrame s (finishScan s) := by
  constructor <;> simp [MapFollows, finishScan]

theorem leaveInterDelay_frame (s : State) : MasterFrame s (leaveInterDelay s) := by
  constructor <;> simp [MapFollows, leaveInterDelay]

theorem nextId_frame (s : State) : MasterFrame s (nextId s) := by
  unfold nextId
  split
  · exact finishScan_frame s
  · dsimp only
    split
    · exact MasterFrame.trans (by constructor <;> simp [MapFollows]) (leaveInterDelay_frame _)
    · constructor <;> simp [MapFollows]

theorem scanAttemptFailed_frame (s : State) : MasterFrame s (scanAttemptFailed s) := by
  unfold scanAttemptFailed
  dsimp only
  split
  · exact MasterFrame.trans (by constructor <;> simp [MapFollows]) (nextId_frame _)
  · split <;> (constructor <;> simp [MapFollows])

theorem scAttemptFailed_frame (s : State) : MasterFrame s (scAttemptFailed s) := by
  unfold scAttemptFailed
  dsimp only
  split
  · constructor <;> simp [MapFollows]
  · split <;> (constructor <;> simp [MapFollows])

theorem pollVerdict_frame (v : Verdict) (s : State) : MasterFrame s (pollVerdict v s) := by
  unfold pollVerdict
  dsimp only
  refine MasterFrame.trans ?_ (enterSleep_frame _ _)
  refine MasterFrame.trans (t := { s with poll := { s.poll with state := .parsing } }) (by constructor <;> simp [MapFollows]) ?_
  cases v with
  | ok p w => exact (dispatchResponse_frame _ _).trans (endTxn_frame _ _ _ _ _)
  | bad e w => exact (raise_frame _ _).trans (endTxn_frame _ _ _ _ _)

theorem scVerdict_frame (v : Verdict) (s : State) : MasterFrame s (scVerdict v s) := by
  cases v with
  | bad e w => exact raise_frame _ _
  | ok p w =>
    unfold scVerdict
    dsimp only
    split
    · refine (dispatchResponse_frame p s).trans (MasterFrame.trans (endTxn_frame .sc w false false _) ?_)
      constructor <;> simp [MapFollows]
    · exact dispatchResponse_frame p s

theorem scanVerdict_frame (v : Verdict) (s : State) : MasterFrame s (scanVerdict v s) := by
  cases v with
  | bad e w => exact raise_frame _ _
  | ok p w =>
    unfold scanVerdict
    dsimp only
    split
    · refine (dispatchResponse_frame p s).trans (MasterFrame.trans ?_ (nextId_frame _))
      refine MasterFrame.trans ?_ (endTxn_frame _ _ _ _ _)
      constructor <;> simp [MapFollows, scanRecord]
    · exact dispatchResponse_frame p s

theorem deliver_frame (v : Verdict) (s : State) : MasterFrame s (deliver v s) := by
  unfold deliver
  split
  · exact MasterFrame.refl s
  · exact pollVerdict_frame v s
  · exact scVerdict_frame v s
  · exact scanVerdict_frame v s

theorem deadlineTail_frame (u : MasterUnit) (s : State) : MasterFrame s (deadlineTail u s) := by
  cases u
  · exact (endTxn_frame _ _ _ _ _).trans (enterSleep_frame _ _)
  · exact (endTxn_frame _ _ _ _ _).trans (scAttemptFailed_frame _)
  · exact (endTxn_frame _ _ _ _ _).trans (scanAttemptFailed_frame _)

theorem deadline_frame (u : MasterUnit) (s : State) : MasterFrame s (deadline u s) := by
  unfold deadline
  dsimp only
  refine MasterFrame.trans ?_ (deadlineTail_frame _ _)
  split
  · exact raise_frame _ _
  · exact (raise_frame _ _).trans (raise_frame _ _)

theorem openWindow_frame (u : MasterUnit) (s : State) : MasterFrame s (openWindow u s) := by
  unfold openWindow
  dsimp only
  have base : MasterFrame s (enterAwait u { s with mAcc := [], txn := { s.txn with elapsed := 0 } }) := by
    cases u <;> (constructor <;> simp [MapFollows, enterAwait])
  split
  · exact base.trans (deadline_frame _ _)
  · exact base

theorem masterTxByte_frame (s : State) : MasterFrame s (masterTxByte s) := by
  unfold masterTxByte
  split
  · exact MasterFrame.refl s
  · dsimp only
    split
    · exact MasterFrame.trans (by constructor <;> simp [MapFollows]) (openWindow_frame _ _)
    · constructor <;> simp [MapFollows]

theorem masterFault_frame (s : State) : MasterFrame s (masterFault s) := by
  unfold masterFault
  split
  · exact MasterFrame.refl s
  · dsimp only
    split
    · exact ((raise_frame _ _).trans (endTxn_frame _ _ _ _ _)).trans (enterSleep_frame _ _)
    · exact ((raise_frame _ _).trans (endTxn_frame _ _ _ _ _)).trans (scAttemptFailed_frame _)
    · exact ((raise_frame _ _).trans (endTxn_frame _ _ _ _ _)).trans (scanAttemptFailed_frame _)

theorem pollTick_frame (s : State) : MasterFrame s (pollTick s) := by
  unfold pollTick
  split
  · dsimp only
    split
    · exact MasterFrame.trans (by constructor <;> simp [MapFollows]) (deadline_frame _ _)
    · constructor <;> simp [MapFollows]
  · constructor <;> simp [MapFollows, pollSleepTick]
  all_goals exact MasterFrame.refl s

theorem scTick_frame (s : State) : MasterFrame s (scTick s) := by
  unfold scTick
  split
  · dsimp only
    split
    · exact MasterFrame.trans (by constructor <;> simp [MapFollows]) (deadline_frame _ _)
    · constructor <;> simp [MapFollows]
  · constructor <;> simp [MapFollows, scBackoffTick]
  all_goals exact MasterFrame.refl s

theorem scanTick_frame (s : State) : MasterFrame s (scanTick s) := by
  unfold scanTick
  split
  · dsimp only
    split
    · exact MasterFrame.trans (by constructor <;> simp [MapFollows]) (deadline_frame _ _)
    · constructor <;> simp [MapFollows]
  · constructor <;> simp [MapFollows, scanRetrySleepTick]
  · unfold scanInterDelayTick
    dsimp only
    split
    · exact MasterFrame.trans (by constructor <;> simp [MapFollows]) (leaveInterDelay_frame _)
    · constructor <;> simp [MapFollows]
  all_goals exact MasterFrame.refl s

theorem countElapsed_frame (s : State) : MasterFrame s (countElapsed s) := by
  unfold countElapsed
  split
  · constructor <;> simp [MapFollows]
  · exact MasterFrame.refl s

theorem masterTick_frame (s : State) : MasterFrame s (masterTick s) :=
  (((countElapsed_frame s).trans (pollTick_frame _)).trans (scTick_frame _)).trans (scanTick_frame _)

theorem pollGrant_frame (s : State) : MasterFrame s (pollGrant s) := by
  unfold pollGrant
  dsimp only
  refine MasterFrame.trans ?_ (beginTxn_frame _ _ _)
  constructor <;> simp [MapFollows, consumePending]

theorem grant_frame (u : MasterUnit) (s : State) : MasterFrame s (grant u s) := by
  cases u
  · exact pollGrant_frame s
  · exact MasterFrame.trans (t := { s with sc := { s.sc with sent := s.sc.sent + 1 } }) (by constructor <;> simp [MapFollows])
      (beginTxn_frame .sc (scRequest s) _)
  · exact beginTxn_frame .scan (scanRequest s) s

/-! ## Whose registers an operation writes -/

@[simp] theorem enterSleep_sc (d : Word16) (s : State) : (enterSleep d s).sc = s.sc := by
  unfold enterSleep; split <;> simp

@[simp] theorem enterSleep_scan (d : Word16) (s : State) : (enterSleep d s).scan = s.scan := by
  unfold enterSleep; split <;> simp

@[simp] theorem enterSleep_lock (d : Word16) (s : State) : (enterSleep d s).lock = s.lock := by
  unfold enterSleep; split <;> simp

@[simp] theorem enterSleep_mTxq (d : Word16) (s : State) : (enterSleep d s).mTxq = s.mTxq := by
  unfold enterSleep; split <;> simp

@[simp] theorem enterSleep_mAcc (d : Word16) (s : State) : (enterSleep d s).mAcc = s.mAcc := by
  unfold enterSleep; split <;> simp

@[simp] theorem scAttemptFailed_poll (s : State) : (scAttemptFailed s).poll = s.poll := by
  unfold scAttemptFailed; dsimp only; split <;> (try split) <;> simp

@[simp] theorem scAttemptFailed_scan (s : State) : (scAttemptFailed s).scan = s.scan := by
  unfold scAttemptFailed; dsimp only; split <;> (try split) <;> simp

@[simp] theorem scAttemptFailed_lock (s : State) : (scAttemptFailed s).lock = s.lock := by
  unfold scAttemptFailed; dsimp only; split <;> (try split) <;> simp

@[simp] theorem scAttemptFailed_mTxq (s : State) : (scAttemptFailed s).mTxq = s.mTxq := by
  unfold scAttemptFailed; dsimp only; split <;> (try split) <;> simp

@[simp] theorem scAttemptFailed_mAcc (s : State) : (scAttemptFailed s).mAcc = s.mAcc := by
  unfold scAttemptFailed; dsimp only; split <;> (try split) <;> simp

@[simp] theorem nextId_poll (s : State) : (nextId s).poll = s.poll := by
  unfold nextId finishScan leaveInterDelay; dsimp only; split <;> (try split) <;> simp

@[simp] theorem nextId_sc (s : State) : (nextId s).sc = s.sc := by
  unfold nextId finishScan leaveInterDelay; dsimp only; split <;> (try split) <;> simp

@[simp] theorem nextId_lock (s : State) : (nextId s).lock = s.lock := by
  unfold nextId finishScan leaveInterDelay; dsimp only; split <;> (try split) <;> simp

@[simp] theorem nextId_mTxq (s : State) : (nextId s).mTxq = s.mTxq := by
  unfold nextId finishScan leaveInterDelay; dsimp only; split <;> (try split) <;> simp

@[simp] theorem nextId_mAcc (s : State) : (nextId s).mAcc = s.mAcc := by
  unfold nextId finishScan leaveInterDelay; dsimp only; split <;> (try split) <;> simp

@[simp] theorem scanAttemptFailed_poll (s : State) : (scanAttemptFailed s).poll = s.poll := by
  unfold scanAttemptFailed; dsimp only; split <;> (try split) <;> simp

@[simp] theorem scanAttemptFailed_sc (s : State) : (scanAttemptFailed s).sc = s.sc := by
  unfold scanAttemptFailed; dsimp only; split <;> (try split) <;> simp

@[simp] theorem scanAttemptFailed_lock (s : State) : (scanAttemptFailed s).lock = s.lock := by
  unfold scanAttemptFailed; dsimp only; split <;> (try split) <;> simp

@[simp] theorem scanAttemptFailed_mTxq (s : State) : (scanAttemptFailed s).mTxq = s.mTxq := by
  unfold scanAttemptFailed; dsimp only; split <;> (try split) <;> simp

@[simp] theorem scanAttemptFailed_mAcc (s : State) : (scanAttemptFailed s).mAcc = s.mAcc := by
  unfold scanAttemptFailed; dsimp only; split <;> (try split) <;> simp

/-- A deadline ends the transaction: the lock is free and both buffers are empty after it. -/
theorem deadline_ends (u : MasterUnit) (s : State) :
    (deadline u s).lock = .free ∧ (deadline u s).mTxq = [] ∧ (deadline u s).mAcc = [] := by
  unfold deadline
  dsimp only
  generalize raise (.timeout (.master u) _) _ = r
  cases u <;> simp [deadlineTail]

/-- A deadline writes no other unit's registers. -/
theorem deadline_others (u : MasterUnit) (s : State) :
    (u ≠ .poll → (deadline u s).poll = s.poll) ∧ (u ≠ .sc → (deadline u s).sc = s.sc) ∧
      (u ≠ .scan → (deadline u s).scan = s.scan) := by
  unfold deadline
  dsimp only
  refine ⟨fun h => ?_, fun h => ?_, fun h => ?_⟩ <;> cases u <;> simp_all [deadlineTail] <;> split <;> simp

theorem pollTick_others (s : State) : (pollTick s).sc = s.sc ∧ (pollTick s).scan = s.scan := by
  unfold pollTick
  split
  · dsimp only
    split
    · exact ⟨(deadline_others _ _).2.1 (by simp), (deadline_others _ _).2.2 (by simp)⟩
    · exact ⟨rfl, rfl⟩
  · exact ⟨rfl, rfl⟩
  all_goals exact ⟨rfl, rfl⟩

theorem scTick_others (s : State) : (scTick s).poll = s.poll ∧ (scTick s).scan = s.scan := by
  unfold scTick
  split
  · dsimp only
    split
    · exact ⟨(deadline_others _ _).1 (by simp), (deadline_others _ _).2.2 (by simp)⟩
    · exact ⟨rfl, rfl⟩
  · exact ⟨rfl, rfl⟩
  all_goals exact ⟨rfl, rfl⟩

theorem scanTick_others (s : State) : (scanTick s).poll = s.poll ∧ (scanTick s).sc = s.sc := by
  unfold scanTick
  split
  · dsimp only
    split
    · exact ⟨(deadline_others _ _).1 (by simp), (deadline_others _ _).2.1 (by simp)⟩
    · exact ⟨rfl, rfl⟩
  · exact ⟨rfl, rfl⟩
  · unfold scanInterDelayTick leaveInterDelay
    dsimp only
    split <;> exact ⟨rfl, rfl⟩
  all_goals exact ⟨rfl, rfl⟩

end Sys2Proof.Machine
end

