-- ==== Sys2Proof/Laws/PerInstr.lean ====
section
/-! SUPPORT. Statements for every instruction, one lemma for each constructor. -/

namespace Sys2Proof.Laws.OpNumber

/-- The first byte of an instruction's encoding tells a host operation, numbered 0..20 (R104), from a frame, which
begins with a magic byte (R90). -/
def Statement (i : Instr) : Prop := ∃ b t, encode i = b :: t ∧ (i.isHostOp = true ↔ b.toNat ≤ 20)

/-- The first byte settles it. -/
theorem of_head {i : Instr} {b : Byte} {t : List Byte} (h : encode i = b :: t)
    (hb : i.isHostOp = decide (b.toNat ≤ 20)) : Statement i :=
  ⟨b, t, h, by rw [hb, decide_eq_true_iff]⟩

theorem reqRead (id data1 data2 checksum : Byte) : Statement (.reqRead id data1 data2 checksum) :=
  of_head rfl rfl
theorem reqSet (id : Byte) (rpm : Word16) (checksum : Byte) : Statement (.reqSet id rpm checksum) :=
  of_head rfl rfl
theorem rspAck (id : Byte) (rpm : Word16) (checksum : Byte) : Statement (.rspAck id rpm checksum) :=
  of_head rfl rfl
theorem rspRead (id : Byte) (rpm alarm : Word16) (checksum : Byte) : Statement (.rspRead id rpm alarm checksum) :=
  of_head rfl rfl
theorem encodeRequest (id command data1 data2 : Byte) : Statement (.encodeRequest id command data1 data2) :=
  of_head rfl rfl
theorem decodeResponse (buffer : List Byte) (availableLen : Nat) : Statement (.decodeResponse buffer availableLen) :=
  of_head rfl rfl
theorem encodeTargetAck (id : Byte) (rpm : Word16) : Statement (.encodeTargetAck id rpm) :=
  of_head rfl rfl
theorem encodeReadRsp (id : Byte) (rpm alarm : Word16) : Statement (.encodeReadRsp id rpm alarm) :=
  of_head rfl rfl
theorem alarmDecode (word : Word16) : Statement (.alarmDecode word) :=
  of_head rfl rfl
theorem alarmDescribe (flags : Word16) : Statement (.alarmDescribe flags) :=
  of_head rfl rfl
theorem alarmHasFault (flags : Word16) : Statement (.alarmHasFault flags) :=
  of_head rfl rfl
theorem alarmIsRemote (flags : Word16) : Statement (.alarmIsRemote flags) :=
  of_head rfl rfl
theorem scan (start stop retries : Byte) (interDelay readTimeout : Word16) : Statement (.scan start stop retries interDelay readTimeout) :=
  of_head rfl rfl
theorem trySet (id : Byte) (rpm : Word16) (retries : Byte) (timeoutMs backoffMs : Word16) : Statement (.trySet id rpm retries timeoutMs backoffMs) :=
  of_head rfl rfl
theorem pollStart : Statement .pollStart :=
  of_head rfl rfl
theorem pollCancel : Statement .pollCancel :=
  of_head rfl rfl
theorem estimate (baud slaveCount frameBytes : Nat) (p : Fraction) : Statement (.estimate baud slaveCount frameBytes p) :=
  of_head rfl rfl
theorem queueSet (id : Byte) (rpm : Word16) : Statement (.queueSet id rpm) :=
  of_head rfl rfl
theorem setMaxRpm (value : Word16) : Statement (.setMaxRpm value) :=
  of_head rfl rfl
theorem loadIdSet (set : IdMask) : Statement (.loadIdSet set) :=
  of_head rfl rfl
theorem setAlarm (word : Word16) : Statement (.setAlarm word) :=
  of_head rfl rfl
theorem loadRpm (id : Byte) (rpm : Word16) : Statement (.loadRpm id rpm) :=
  of_head rfl rfl
theorem readRpm (id : Byte) : Statement (.readRpm id) :=
  of_head rfl rfl
theorem slaveStart (port : Nat) : Statement (.slaveStart port) :=
  of_head rfl rfl
theorem slaveStop (port : Nat) : Statement (.slaveStop port) :=
  of_head rfl rfl

end Sys2Proof.Laws.OpNumber
end

