-- ==== Sys2Proof/Laws/Slave.lean ====
section
/-! SUPPORT. The slave side: what an event of one port leaves alone, and what `assemble()` can do. -/

namespace Sys2Proof.Machine

/-! ## What the slave unit on port `p` leaves alone -/

/-- Every register but the unit's own, the RPM map, EVOUT and the model's counters is the same; the map follows the
events published, and EVOUT only grows, by reports of the slave. -/
structure SlaveFrame (p : Nat) (s t : State) : Prop where
  map : MapFollows s t
  params : t.params = s.params
  maxRpm : t.maxRpm = s.maxRpm
  idSet : t.idSet = s.idSet
  sAlarm : t.sAlarm = s.sAlarm
  pend : t.pend = s.pend
  lock : t.lock = s.lock
  mTxq : t.mTxq = s.mTxq
  mAcc : t.mAcc = s.mAcc
  txn : t.txn = s.txn
  poll : t.poll = s.poll
  sc : t.sc = s.sc
  scan : t.scan = s.scan
  mTxOut : t.mTxOut = s.mTxOut
  retOut : t.retOut = s.retOut
  inputs : t.inputs = s.inputs
  evOut : s.evOut <+: t.evOut
  ports : t.slaves.length = s.slaves.length
  others : ∀ q, q ≠ p → t.slaves[q]? = s.slaves[q]?
  reports : ∀ e ∈ t.evOut.drop s.evOut.length, isSlaveReport e = true

theorem SlaveFrame.refl (p : Nat) (s : State) : SlaveFrame p s s := by
  constructor <;> simp [MapFollows]

/-- What is published in two steps is reports, if it is in each. -/
theorem slave_reports_trans {l m n : List OutEvent} (h : l <+: m) (k : m <+: n)
    (hr : ∀ e ∈ m.drop l.length, isSlaveReport e = true) (kr : ∀ e ∈ n.drop m.length, isSlaveReport e = true) :
    ∀ e ∈ n.drop l.length, isSlaveReport e = true := by
  intro e he
  obtain ⟨x, rfl⟩ := h
  obtain ⟨y, rfl⟩ := k
  have hh := hr e
  have hk := kr e
  simp at he hh hk
  exact he.elim hh hk

theorem SlaveFrame.trans {p : Nat} {s t r : State} (h : SlaveFrame p s t) (k : SlaveFrame p t r) :
    SlaveFrame p s r := by
  constructor
  case map => exact h.map.trans k.map h.evOut k.evOut
  case evOut => exact h.evOut.trans k.evOut
  case others => exact fun q hq => (k.others q hq).trans (h.others q hq)
  case reports => exact slave_reports_trans h.evOut k.evOut h.reports k.reports
  all_goals first
    | exact k.params.trans h.params | exact k.maxRpm.trans h.maxRpm | exact k.idSet.trans h.idSet
    | exact k.sAlarm.trans h.sAlarm | exact k.pend.trans h.pend | exact k.lock.trans h.lock
    | exact k.mTxq.trans h.mTxq | exact k.mAcc.trans h.mAcc | exact k.txn.trans h.txn
    | exact k.poll.trans h.poll | exact k.sc.trans h.sc | exact k.scan.trans h.scan
    | exact k.mTxOut.trans h.mTxOut | exact k.retOut.trans h.retOut | exact k.inputs.trans h.inputs
    | exact k.ports.trans h.ports

theorem setSlave_frame (p : Nat) (u : Slave) (s : State) : SlaveFrame p s (setSlave p u s) := by
  constructor <;> simp [MapFollows]
  intro q hq
  simp [Ne.symm hq]

theorem emit_slaveFrame (p : Nat) {e : OutEvent} (s : State) (h : isSlaveReport e = true) :
    SlaveFrame p s (emit e s) := by
  constructor <;> simp [MapFollows, h]

/-- A Set request is filed and published (R287). -/
theorem record_slaveFrame (p : Nat) (id : Byte) (rpm : Word16) (s : State) :
    SlaveFrame p s (emit (.sReq id cmdSet rpm) (writeMap id.toNat rpm s)) := by
  constructor <;> first | exact MapFollows.of_record s (by simp [recordedRpm]) | simp [isSlaveReport]

theorem afterDraw_slaveFrame (p : Nat) (s : State) : SlaveFrame p s (afterDraw s) := by
  constructor <;> simp [MapFollows]

theorem activePort_slaveFrame (p q : Nat) (s : State) : SlaveFrame p s { s with activePort := q } := by
  constructor <;> simp [MapFollows]

/-! ## Validation and dispatch -/

theorem dispatchSet_frame (p : Nat) (u : Slave) (id : Byte) (rpm : Word16) (s : State) :
    SlaveFrame p s (dispatchSet p u id rpm s) := by
  have base : SlaveFrame p s (afterDraw (emit (.sReq id cmdSet rpm) (writeMap id.toNat rpm s))) :=
    (record_slaveFrame p id rpm s).trans (afterDraw_slaveFrame p _)
  unfold dispatchSet
  dsimp only
  split <;> exact base.trans (setSlave_frame p _ _)

theorem dispatchRead_frame (p : Nat) (u : Slave) (id : Byte) (s : State) :
    SlaveFrame p s (dispatchRead p u id s) :=
  (emit_slaveFrame p _ rfl).trans (setSlave_frame p _ _)

theorem rejectWindow_frame (p : Nat) (u : Slave) (e : ExcKind) (s : State) :
    SlaveFrame p s (rejectWindow p u e s) :=
  (emit_slaveFrame p _ rfl).trans (setSlave_frame p _ _)

theorem validateAndDispatch_frame (p : Nat) (u : Slave) (f : List Byte) (s : State) :
    SlaveFrame p s (validateAndDispatch p u f s) := by
  unfold validateAndDispatch
  split
  · exact rejectWindow_frame p u _ s
  · exact dispatchSet_frame p u _ _ s
  · exact dispatchRead_frame p u _ s

/-- What `validate_and_dispatch` leaves in the unit's own registers: the window was dropped and seeking resumes, or
the processing delay of a Set runs, or a response waits to be sent (R285). -/
def AfterWindow (u v : Slave) : Prop :=
  v.acc = u.acc ∧ v.txOut = u.txOut ∧ v.cancelReq = u.cancelReq ∧
    ((v.state = .seeking ∧ v.txq = u.txq) ∨
      (v.state = .dispatching ∧ v.phase = .delay ∧ v.txq = u.txq ∧ v.timer ≠ 0) ∨
      (v.state = .dispatching ∧ v.phase = .send ∧ v.txq ≠ []))

theorem validateAndDispatch_unit {p : Nat} {s : State} {w : Slave} (u : Slave) (f : List Byte)
    (hp : s.slaves[p]? = some w) :
    ∃ v, (validateAndDispatch p u f s).slaves[p]? = some v ∧ AfterWindow u v := by
  have key : ∀ (v : Slave) (m : State), m.slaves = s.slaves → (setSlave p v m).slaves[p]? = some v := by
    intro v m hm
    exact getElem?_setSlave_self v (hm ▸ hp)
  unfold validateAndDispatch
  split
  · exact ⟨_, key _ _ rfl, rfl, rfl, rfl, .inl ⟨rfl, rfl⟩⟩
  · unfold dispatchSet
    dsimp only
    split
    · exact ⟨_, key _ _ (by simp), rfl, rfl, rfl,
        .inr (.inr ⟨rfl, rfl, by simp [sendTargetAck, targetAckFrame, withChecksum]⟩)⟩
    · rename_i hd
      exact ⟨_, key _ _ (by simp), rfl, rfl, rfl, .inr (.inl ⟨rfl, rfl, rfl, hd⟩)⟩
  · exact ⟨_, key _ _ (by simp), rfl, rfl, rfl,
      .inr (.inr ⟨rfl, rfl, by simp [readRspFrame, withChecksum]⟩)⟩

/-! ## A request window -/

/-- A window that begins with the request magic is validated and dispatched, whichever row it decodes to, or none
(R285). -/
theorem runRequestWindow_eq {p : Nat} {s : State} {u : Slave} (id cmd d1 d2 ck : Byte)
    (hp : s.slaves[p]? = some u) :
    runRequestWindow p [reqMagic0, reqMagic1, id, cmd, d1, d2, ck] s =
      .next (validateAndDispatch p u [reqMagic0, reqMagic1, id, cmd, d1, d2, ck] { s with activePort := p }) := by
  have hp' : ({ s with activePort := p } : State).slaves[p]? = some u := hp
  simp only [runRequestWindow, decodeRequestFrame]
  by_cases h5 : cmd = cmdRead
  · subst h5
    simp [exec, execReqRead, withSlave_of_some hp', encode]
  · by_cases h6 : cmd = cmdSet
    · subst h6
      simp [exec, execReqSet, withSlave_of_some hp', encode]
    · rw [if_neg (by decide), if_neg h5, if_neg h6]
      exact withSlave_of_some hp _

/-- Whatever bytes a request window holds, one window is validated and dispatched. -/
theorem runRequestWindow_next {p : Nat} {s : State} {u : Slave} (f : List Byte) (hp : s.slaves[p]? = some u) :
    ∃ f', runRequestWindow p f s = .next (validateAndDispatch p u f' { s with activePort := p }) := by
  have hp' : ({ s with activePort := p } : State).slaves[p]? = some u := hp
  unfold runRequestWindow
  split
  · rename_i i rest h
    unfold decodeRequestFrame at h
    split at h
    · split at h
      · cases h
      · split at h
        · cases h
          exact ⟨_, withSlave_of_some hp' _⟩
        · split at h
          · cases h
            exact ⟨_, withSlave_of_some hp' _⟩
          · cases h
    · cases h
  · exact ⟨f, withSlave_of_some hp _⟩

/-! ## assemble() -/

/-- A collecting unit's bytes begin with the request magic (R282). -/
def CollectsMagic (u : Slave) : Prop :=
  u.state = .collecting → ∃ rest, u.acc = reqMagic0 :: reqMagic1 :: rest

/-- What `assemble()` leaves in the unit (R282): between steps it seeks, collects, or has begun a dispatch. -/
structure Assembled (u v : Slave) : Prop where
  ok : u.txq = [] → CollectsMagic u → SlaveOk v
  txOut : v.txOut = u.txOut
  timed : slvTimed v = true → v.timer ≠ 0
  going : v.state = .seeking ∨ v.state = .collecting ∨ v.state = .dispatching

theorem seek_cases (u : Slave) (hst : u.state = .seeking ∨ u.state = .collecting) :
    ∃ st acc, seek u = { u with state := st, acc := acc } ∧ acc.length ≤ u.acc.length ∧
      ((st = .seeking ∧ (acc = [] ∨ acc = [reqMagic0])) ∨
        (st = .collecting ∧ (CollectsMagic u → ∃ rest, acc = reqMagic0 :: reqMagic1 :: rest))) := by
  rcases hst with h | h
  · have hs : seek u = { u with
        acc := resync reqMagic0 reqMagic1 u.acc
        state := if (resync reqMagic0 reqMagic1 u.acc).length < 2 then .seeking else .collecting } := by
      simp [seek, h]
    refine ⟨_, _, hs, (resync_suffix _ _ _).length_le, ?_⟩
    rcases resync_front reqMagic0 reqMagic1 u.acc with k | k | ⟨rest, k⟩
    · exact .inl ⟨by rw [k]; rfl, .inl k⟩
    · exact .inl ⟨by rw [k]; rfl, .inr k⟩
    · exact .inr ⟨by rw [k]; simp, fun _ => ⟨rest, k⟩⟩
  · exact ⟨u.state, u.acc, by rw [seek, if_neg (by simp [h])], Nat.le_refl _, .inr ⟨h, fun hc => hc h⟩⟩

/-- `assemble()` from a seeking or collecting unit always answers a next state; it touches only this unit, the RPM
map, EVOUT and the model's counters, and leaves the unit in order. -/
theorem assembleFuel_spec (p fuel : Nat) (s : State) (u : Slave) (hp : s.slaves[p]? = some u)
    (hfuel : u.acc.length < fuel) (hst : u.state = .seeking ∨ u.state = .collecting) :
    ∃ t v, assembleFuel p fuel s = .next t ∧ SlaveFrame p s t ∧ t.slaves[p]? = some v ∧ Assembled u v := by
  induction fuel generalizing s u with
  | zero => omega
  | succ fuel ih =>
    obtain ⟨st, acc, hseek, hle, hcase⟩ := seek_cases u hst
    simp only [assembleFuel, withSlave_of_some hp, hseek]
    split
    · rename_i h7
      set u1 : Slave := { u with state := .validating, acc := acc.drop reqLen } with hu1
      have hp1 : (setSlave p u1 s).slaves[p]? = some u1 := getElem?_setSlave_self u1 hp
      obtain ⟨f, hf⟩ := runRequestWindow_next (acc.take reqLen) hp1
      rw [hf, andThen_next]
      obtain ⟨v, hv, hacc, htx, hcr, hsts⟩ :=
        validateAndDispatch_unit (p := p) (s := { setSlave p u1 s with activePort := p }) u1 f hp1
      have hframe := ((setSlave_frame p u1 s).trans (activePort_slaveFrame p p _)).trans
        (validateAndDispatch_frame p u1 f _)
      rw [withSlave_of_some hv]
      rcases hsts with ⟨h1, h2⟩ | ⟨h1, h2, h3, h4⟩ | ⟨h1, h2, h3⟩
      · simp only [h1, if_true]
        have hlen : v.acc.length < fuel := by
          have h8 : 7 ≤ acc.length := h7.2
          have : (acc.drop reqLen).length = acc.length - 7 := by simp
          have h9 : v.acc = acc.drop reqLen := hacc
          rw [h9]
          omega
        obtain ⟨t, w, ht, hf, hw', ha⟩ := ih _ v hv hlen (.inl h1)
        exact ⟨t, w, ht, hframe.trans hf, hw',
          ⟨fun hq _ => ha.ok (h2.trans hq) (by simp [CollectsMagic, h1]), ha.txOut.trans htx, ha.timed, ha.going⟩⟩
      · refine ⟨_, v, by simp [h1], hframe, hv, ⟨?_, htx, fun _ => h4, .inr (.inr h1)⟩⟩
        intro hq _
        have hq' : v.txq = [] := h3.trans hq
        constructor <;> simp [h1, h2, hq']
      · refine ⟨_, v, by simp [h1], hframe, hv, ⟨?_, htx, by simp [slvTimed, h1, h2], .inr (.inr h1)⟩⟩
        intro hq _
        constructor <;> simp [h1, h2, h3]
    · rename_i h7
      refine ⟨_, _, rfl, setSlave_frame p _ s, getElem?_setSlave_self _ hp, ⟨?_, rfl, ?_, ?_⟩⟩
      · intro hq hc
        rcases hcase with ⟨rfl, h⟩ | ⟨rfl, h⟩
        · constructor <;> simp [hq]
          exact h
        · obtain ⟨rest, h⟩ := h hc
          have : acc.length < 7 := by
            by_contra hh
            exact h7 ⟨rfl, by simpa using Nat.le_of_not_lt hh⟩
          constructor <;> simp [hq]
          exact ⟨this, rest, h⟩
      · rcases hcase with ⟨rfl, h⟩ | ⟨rfl, h⟩ <;> simp [slvTimed]
      · rcases hcase with ⟨rfl, h⟩ | ⟨rfl, h⟩ <;> simp

/-- The fuel makes no difference once it exceeds the bytes of the buffer, of which every round that goes on drops
seven. -/
theorem assembleFuel_enough (p f g : Nat) (s : State) (u : Slave) (hp : s.slaves[p]? = some u)
    (hf : u.acc.length < f) (hg : u.acc.length < g) : assembleFuel p f s = assembleFuel p g s := by
  induction f generalizing g s u with
  | zero => omega
  | succ f ih =>
    obtain ⟨g, rfl⟩ : ∃ k, g = k + 1 := ⟨g - 1, by omega⟩
    simp only [assembleFuel, withSlave_of_some hp]
    split
    · rename_i h7
      set u1 : Slave := { seek u with state := .validating, acc := (seek u).acc.drop reqLen } with hu1
      have hp1 : (setSlave p u1 s).slaves[p]? = some u1 := getElem?_setSlave_self u1 hp
      obtain ⟨w, hw⟩ := runRequestWindow_next ((seek u).acc.take reqLen) hp1
      rw [hw, andThen_next, andThen_next]
      obtain ⟨v, hv, hacc, -⟩ :=
        validateAndDispatch_unit (p := p) (s := { setSlave p u1 s with activePort := p }) u1 w hp1
      rw [withSlave_of_some hv, withSlave_of_some hv]
      have hlen : v.acc.length + 7 ≤ u.acc.length := by
        have h8 : 7 ≤ (seek u).acc.length := h7.2
        have h9 : (seek u).acc.length ≤ u.acc.length := by
          unfold seek
          split
          · exact (resync_suffix _ _ _).length_le
          · exact Nat.le_refl _
        have h10 : v.acc = (seek u).acc.drop reqLen := hacc
        rw [h10, List.length_drop]
        simp only [reqLen]
        omega
      split
      · exact ih g _ v hv (by omega) (by omega)
      · rfl
    · rfl

/-- `assemble()` as the events call it. -/
theorem assemble_spec (p : Nat) (s : State) (u : Slave) (hp : s.slaves[p]? = some u)
    (hst : u.state = .seeking ∨ u.state = .collecting) :
    ∃ t v, assemble p s = .next t ∧ SlaveFrame p s t ∧ t.slaves[p]? = some v ∧ Assembled u v := by
  simp only [assemble, withSlave_of_some hp]
  exact assembleFuel_spec p _ s u hp (Nat.lt_succ_self _) hst

end Sys2Proof.Machine
end

