-- ==== Sys2Proof/Laws/Tick.lean ====
section
/-! SUPPORT. The tick: what one slave unit's part can do, and how the parts of one tick compose. -/

namespace Sys2Proof.Machine

/-! ## One slave unit's part -/

/-- What the slave unit's part of a tick makes of the unit (R288, R291, R341): the delay counts down and the
acknowledgment leaves, the pause counts down and seeking resumes, or nothing happens. -/
def SlaveTicked (u v : Slave) : Prop :=
  (u.state = .dispatching ∧ u.phase = .delay ∧ u.timer = 1 ∧ v = sendTargetAck { u with timer := 0 }) ∨
    (u.state = .dispatching ∧ u.phase = .delay ∧ u.timer ≠ 1 ∧ v = { u with timer := u.timer - 1 }) ∨
    (u.state = .paused ∧ u.timer = 1 ∧ Assembled { u with timer := 0, state := .seeking } v) ∨
    (u.state = .paused ∧ u.timer ≠ 1 ∧ v = { u with timer := u.timer - 1 }) ∨
    (slvTimed u = false ∧ v = u)

/-- A 16-bit down-counter reaches 0 exactly from 1. -/
theorem timer_reaches_zero (x : Word16) : x - 1 = 0 ↔ x = 1 := by
  constructor <;> intro h
  · have := congrArg (· + 1) h
    simpa using this
  · simp [h]

/-- The part always completes; it publishes only where a pause runs out. -/
theorem slaveTick_spec {p : Nat} {s : State} {u : Slave} (hp : s.slaves[p]? = some u) :
    ∃ t v, slaveTick p s = .next t ∧ SlaveFrame p s t ∧ t.slaves[p]? = some v ∧ SlaveTicked u v ∧
      (slaveTickShows u = false → t.evOut = s.evOut) := by
  unfold slaveTick
  rw [withSlave_of_some hp]
  split
  · rename_i h
    dsimp only
    refine ⟨_, _, rfl, setSlave_frame p _ s, getElem?_setSlave_self _ hp, ?_, fun _ => rfl⟩
    by_cases h1 : u.timer = 1
    · rw [if_pos ((timer_reaches_zero _).mpr h1)]
      exact .inl ⟨h.1, h.2, h1, by rw [(timer_reaches_zero _).mpr h1]⟩
    · rw [if_neg (fun k => h1 ((timer_reaches_zero _).mp k))]
      exact .inr (.inl ⟨h.1, h.2, h1, rfl⟩)
  · rename_i hd
    split
    · rename_i h
      dsimp only
      by_cases h1 : u.timer = 1
      · rw [if_pos ((timer_reaches_zero _).mpr h1)]
        unfold resumeSeeking
        rw [(timer_reaches_zero _).mpr h1]
        obtain ⟨t, v, ht, hf, hv, ha⟩ :=
          assemble_spec p (setSlave p { u with timer := 0, state := .seeking } s)
            { u with timer := 0, state := .seeking } (getElem?_setSlave_self _ hp) (.inl rfl)
        exact ⟨t, v, ht, (setSlave_frame p _ s).trans hf, hv, .inr (.inr (.inl ⟨h, h1, ha⟩)),
          fun k => by simp [slaveTickShows, h, h1] at k⟩
      · rw [if_neg (fun k => h1 ((timer_reaches_zero _).mp k))]
        exact ⟨_, _, rfl, setSlave_frame p _ s, getElem?_setSlave_self _ hp,
          .inr (.inr (.inr (.inl ⟨h, h1, rfl⟩))), fun _ => rfl⟩
    · rename_i h
      refine ⟨s, u, rfl, SlaveFrame.refl p s, hp, .inr (.inr (.inr (.inr ⟨?_, rfl⟩))), fun _ => rfl⟩
      by_cases h1 : u.state = .dispatching
      · have h2 : u.phase ≠ .delay := fun k => hd ⟨h1, k⟩
        simp [slvTimed, h1, h2]
      · simp [slvTimed, h1, h]

/-! ## The parts of one tick -/

/-- The parts are performed each once, in some order. -/
theorem tickParts_perm (s : State) : (tickParts s).Perm (List.range (s.slaves.length + 1)) := by
  unfold tickParts
  dsimp only
  split
  · exact List.Perm.refl _
  · generalize Config.tickOrder s.freeCount = named
    have hnd : (List.range (s.slaves.length + 1)).Nodup := List.nodup_range
    generalize List.range (s.slaves.length + 1) = parts at hnd
    apply (List.perm_ext_iff_of_nodup _ hnd).mpr
    · intro a
      simp [orderParts]
      tauto
    · unfold orderParts
      refine List.Nodup.append (List.nodup_dedup _) (hnd.filter _) ?_
      intro a ha hb
      simp at ha hb
      exact hb.2 ha.1

/-- The master side's registers, the parameters, the configuration and the traces of the master are the same. -/
structure SameMaster (s t : State) : Prop where
  params : t.params = s.params
  maxRpm : t.maxRpm = s.maxRpm
  idSet : t.idSet = s.idSet
  sAlarm : t.sAlarm = s.sAlarm
  pend : t.pend = s.pend
  lock : t.lock = s.lock
  mTxq : t.mTxq = s.mTxq
  mAcc : t.mAcc = s.mAcc
  txn : t.txn = s.txn
  poll : t.poll = s.poll
  sc : t.sc = s.sc
  scan : t.scan = s.scan
  mTxOut : t.mTxOut = s.mTxOut

theorem SameMaster.refl (s : State) : SameMaster s s := by
  constructor <;> rfl

theorem SameMaster.trans {s t r : State} (h : SameMaster s t) (k : SameMaster t r) : SameMaster s r := by
  cases h; cases k
  constructor <;> simp_all

theorem SlaveFrame.same {p : Nat} {s t : State} (h : SlaveFrame p s t) : SameMaster s t := by
  cases h
  constructor <;> assumption

/-- In none of the slave units named does a pause run out. -/
def NoPauseEnds (parts : List Nat) (s : State) : Prop :=
  ∀ p u, p + 1 ∈ parts → s.slaves[p]? = some u → slaveTickShows u = false

/-- What performing `parts` makes of `s` (R341): the master units' registers are those after one master part, if it is
among them, and EVOUT holds what that part published between reports of the slaves whose pause ends; each slave unit
named has had its own part once; the others are as before. -/
structure Ticked (parts : List Nat) (s t : State) : Prop where
  params : t.params = s.params
  sAlarm : t.sAlarm = s.sAlarm
  maxRpm : t.maxRpm = s.maxRpm
  retOut : t.retOut = s.retOut
  inputs : t.inputs = s.inputs
  map : MapFollows s t
  evOut : s.evOut <+: t.evOut
  mTxOut : s.mTxOut <+: t.mTxOut
  ports : t.slaves.length = s.slaves.length
  others : ∀ p, p + 1 ∉ parts → t.slaves[p]? = s.slaves[p]?
  slaves : ∀ p u, p + 1 ∈ parts → s.slaves[p]? = some u → ∃ v, t.slaves[p]? = some v ∧ SlaveTicked u v
  idle : 0 ∉ parts → SameMaster s t
  master : 0 ∈ parts → ∃ m, SameMaster s m ∧ SameMaster (masterTick m) t ∧
    s.evOut <+: m.evOut ∧ (masterTick m).evOut <+: t.evOut ∧
    (∀ e ∈ m.evOut.drop s.evOut.length ++ t.evOut.drop (masterTick m).evOut.length, isSlaveReport e = true) ∧
    (NoPauseEnds parts s → m.evOut = s.evOut ∧ t.evOut = (masterTick m).evOut)
  reports : 0 ∉ parts → (∀ e ∈ t.evOut.drop s.evOut.length, isSlaveReport e = true) ∧
    (NoPauseEnds parts s → t.evOut = s.evOut)

/-- The parts performed one after another: the first ones, then the rest. -/
theorem runTickParts_append (a b : List Nat) (s : State) :
    runTickParts (a ++ b) s = andThen (runTickParts a s) (runTickParts b) := by
  induction a generalizing s with
  | nil => rfl
  | cons q a ih =>
    simp only [List.cons_append, runTickParts]
    cases tickPart s q with
    | next t => exact ih t
    | fault e => rfl
    | refused e => rfl

theorem runTickParts_spec (parts : List Nat) (s : State) (hnd : parts.Nodup)
    (hle : ∀ q ∈ parts, q ≤ s.slaves.length) : ∃ t, runTickParts parts s = .next t ∧ Ticked parts s t := by
  induction parts generalizing s with
  | nil =>
    refine ⟨s, rfl, ?_⟩
    constructor <;> simp [SameMaster.refl, MapFollows.refl]
  | cons q rest ih =>
    have hq : q ∉ rest := (List.nodup_cons.mp hnd).1
    have hrest : rest.Nodup := (List.nodup_cons.mp hnd).2
    cases q with
    | zero =>
      have hf := masterTick_frame s
      have hs : (masterTick s).slaves = s.slaves := hf.slaves
      obtain ⟨t, ht, hT⟩ := ih (masterTick s) hrest (by
        intro q hq'
        rw [hs]
        exact hle q (List.mem_cons_of_mem _ hq'))
      refine ⟨t, by simp [runTickParts, tickPart, ht], ?_⟩
      constructor
      case params => exact hT.params.trans hf.params
      case sAlarm => exact hT.sAlarm.trans hf.sAlarm
      case maxRpm => exact hT.maxRpm.trans hf.maxRpm
      case retOut => exact hT.retOut.trans hf.retOut
      case inputs => exact hT.inputs.trans hf.inputs
      case map => exact hf.map.trans hT.map hf.evOut hT.evOut
      case evOut => exact hf.evOut.trans hT.evOut
      case mTxOut => exact hf.mTxOut.trans hT.mTxOut
      case ports => exact hT.ports.trans (by rw [hs])
      case others =>
        intro p hp
        rw [hT.others p (fun k => hp (List.mem_cons_of_mem _ k)), hs]
      case slaves =>
        intro p u hp hu
        exact hT.slaves p u (by simpa using hp) (by rw [hs]; exact hu)
      case idle => simp
      case master =>
        exact fun _ => ⟨s, SameMaster.refl s, hT.idle hq, List.prefix_refl _, hT.evOut, by simpa using (hT.reports hq).1,
          fun hn => ⟨rfl, (hT.reports hq).2 fun p u hp hu => hn p u (by simp [hp]) (hs ▸ hu)⟩⟩
      case reports => simp
    | succ p =>
      have hp : p < s.slaves.length := hle (p + 1) (by simp)
      obtain ⟨m, v, hm, hf, hv, hu, hev⟩ := slaveTick_spec (s := s) (p := p) (List.getElem?_eq_getElem hp)
      obtain ⟨t, ht, hT⟩ := ih m hrest (by
        intro q hq'
        rw [hf.ports]
        exact hle q (List.mem_cons_of_mem _ hq'))
      have hquiet : NoPauseEnds ((p + 1) :: rest) s → m.evOut = s.evOut ∧ NoPauseEnds rest m := fun hn =>
        ⟨hev (hn p _ (by simp) (List.getElem?_eq_getElem hp)), fun a u ha hau =>
          hn a u (by simp [ha]) (by rw [← hf.others a (fun k => hq (k ▸ ha))]; exact hau)⟩
      refine ⟨t, by simp [runTickParts, tickPart, hm, ht], ?_⟩
      constructor
      case params => exact hT.params.trans hf.params
      case sAlarm => exact hT.sAlarm.trans hf.sAlarm
      case maxRpm => exact hT.maxRpm.trans hf.maxRpm
      case retOut => exact hT.retOut.trans hf.retOut
      case inputs => exact hT.inputs.trans hf.inputs
      case map => exact hf.map.trans hT.map hf.evOut hT.evOut
      case evOut => exact hf.evOut.trans hT.evOut
      case mTxOut =>
        rw [← hf.mTxOut]
        exact hT.mTxOut
      case ports => exact hT.ports.trans hf.ports
      case others =>
        intro a ha
        rw [hT.others a (fun k => ha (List.mem_cons_of_mem _ k))]
        exact hf.others a (fun k => ha (by simp [k]))
      case slaves =>
        intro a u ha hau
        by_cases hap : a = p
        · subst hap
          rw [List.getElem?_eq_getElem hp] at hau
          cases hau
          exact ⟨v, by rw [hT.others a hq]; exact hv, hu⟩
        · exact hT.slaves a u (by simpa [hap] using ha) (by rw [hf.others a hap]; exact hau)
      case idle => exact fun h => hf.same.trans (hT.idle (fun k => h (List.mem_cons_of_mem _ k)))
      case master =>
        intro h
        obtain ⟨m', h1, h2, h3, h4, h5, h6⟩ := hT.master (by simpa using h)
        refine ⟨m', hf.same.trans h1, h2, hf.evOut.trans h3, h4, fun e he => ?_, fun hn =>
          ⟨(h6 (hquiet hn).2).1.trans (hquiet hn).1, (h6 (hquiet hn).2).2⟩⟩
        rcases List.mem_append.mp he with he | he
        · exact slave_reports_trans hf.evOut h3 hf.reports (fun e he => h5 e (by simp [he])) e he
        · exact h5 e (by simp [he])
      case reports =>
        intro h
        have hr := hT.reports fun k => h (List.mem_cons_of_mem _ k)
        exact ⟨slave_reports_trans hf.evOut hT.evOut hf.reports hr.1, fun hn =>
          (hr.2 (hquiet hn).2).trans (hquiet hn).1⟩

/-- What a tick makes of the state (R341): every unit's part happens once, and the tick always completes. -/
theorem tick_spec (s : State) : ∃ t, tick s = .next t ∧ Ticked (List.range (s.slaves.length + 1)) s t := by
  have hperm := tickParts_perm s
  have hnd : (tickParts s).Nodup := hperm.nodup_iff.mpr List.nodup_range
  unfold tick
  generalize hs' : (if tickShows s ≤ 1 then s else countFree s) = s'
  have hsl : s'.slaves = s.slaves := by subst hs'; split <;> simp
  obtain ⟨t, ht, hT⟩ := runTickParts_spec (tickParts s) s' hnd (by
    intro q hq
    have := hperm.mem_iff.mp hq
    rw [hsl]
    simp at this
    omega)
  refine ⟨t, ht, ?_⟩
  have hsame : SameMaster s s' := by subst hs'; split <;> (constructor <;> rfl)
  have hev : s'.evOut = s.evOut := by subst hs'; split <;> simp
  have hmap : s'.rpmMap = s.rpmMap := by subst hs'; split <;> simp
  constructor
  case params => exact hT.params.trans hsame.params
  case sAlarm => exact hT.sAlarm.trans hsame.sAlarm
  case maxRpm => exact hT.maxRpm.trans hsame.maxRpm
  case retOut => rw [hT.retOut]; subst hs'; split <;> simp
  case inputs => rw [hT.inputs]; subst hs'; split <;> simp
  case map => exact MapFollows.trans (.inl hmap) hT.map (by rw [hev]) hT.evOut
  case evOut =>
    rw [← hev]
    exact hT.evOut
  case mTxOut =>
    rw [← hsame.mTxOut]
    exact hT.mTxOut
  case ports => rw [hT.ports, hsl]
  case others =>
    intro p hp
    rw [hT.others p (fun k => hp (hperm.mem_iff.mp k)), hsl]
  case slaves =>
    intro p u hp hu
    exact hT.slaves p u (hperm.mem_iff.mpr hp) (by rw [hsl]; exact hu)
  case idle => simp
  case master =>
    intro h
    obtain ⟨m, h1, h2, h3, h4, h5, h6⟩ := hT.master (hperm.mem_iff.mpr h)
    refine ⟨m, hsame.trans h1, h2, hev ▸ h3, h4, by rw [← hev]; exact h5, fun hn => ?_⟩
    rw [← hev]
    exact h6 fun p u hp hu => hn p u (hperm.mem_iff.mp hp) (hsl ▸ hu)
  case reports => simp

end Sys2Proof.Machine
end

