-- ==== Sys2Proof/Laws/Step.lean ====
section
/-! SUPPORT. What one step can do, said once: the event, the state it is handled at, and the state it leaves. -/

namespace Sys2Proof.Machine

/-! ## What an event of a slave port can do to its unit -/

/-- What an event of a slave port leaves of the unit's order, timer and transmitted bytes. -/
structure SlaveMoved (u v : Slave) : Prop where
  ok : SlaveOk u → SlaveOk v
  txOut : u.txOut <+: v.txOut
  timed : (slvTimed u = true → u.timer ≠ 0) → slvTimed v = true → v.timer ≠ 0

/-- An event touched the unit of port `p` only, and moved it so. -/
def PortMoved (p : Nat) (s t : State) : Prop :=
  SlaveFrame p s t ∧ ∃ u v, s.slaves[p]? = some u ∧ t.slaves[p]? = some v ∧ SlaveMoved u v

theorem SlaveMoved.refl (u : Slave) : SlaveMoved u u := ⟨id, List.prefix_refl _, id⟩

theorem PortMoved.of_setSlave {p : Nat} {s : State} {u v : Slave} (hu : s.slaves[p]? = some u)
    (h : SlaveMoved u v) : PortMoved p s (setSlave p v s) :=
  ⟨setSlave_frame p v s, u, v, hu, getElem?_setSlave_self v hu, h⟩

/-- A listener stopped holds nothing and waits for nothing (R317, R318). -/
theorem SlaveOk.of_stopped {u : Slave} (hs : u.state = .stopped) (ha : u.acc = []) (hq : u.txq = []) : SlaveOk u := by
  constructor <;> simp [hs, ha, hq]

theorem SlaveOk.txq_nil {u : Slave} (h : SlaveOk u) (hs : u.state ≠ .dispatching ∨ u.phase ≠ .send) : u.txq = [] := by
  by_contra hq
  have := h.sending.mp hq
  tauto

theorem SlaveOk.collectsMagic {u : Slave} (h : SlaveOk u) : CollectsMagic u := fun hc => (h.collecting hc).2

/-- What `assemble()` does, seen from the unit `u` that the event found, `w` being what the event made of it first. -/
theorem assemble_moved {p : Nat} {s m : State} {u w : Slave} (hu : s.slaves[p]? = some u) (hf : SlaveFrame p s m)
    (hw : m.slaves[p]? = some w) (hst : w.state = .seeking ∨ w.state = .collecting)
    (hq : SlaveOk u → w.txq = [] ∧ CollectsMagic w) (htx : u.txOut <+: w.txOut) :
    ∃ t, assemble p m = .next t ∧ PortMoved p s t := by
  obtain ⟨t, v, ht, hF, hv, hA⟩ := assemble_spec p m w hw hst
  refine ⟨t, ht, hf.trans hF, u, v, hu, hv, ⟨fun h => hA.ok (hq h).1 (hq h).2, ?_, fun _ => hA.timed⟩⟩
  rw [hA.txOut]
  exact htx

theorem slaveRx_cases {p : Nat} {b : Byte} {s t : State} (h : slaveRx p b s = .next t) : t = s ∨ PortMoved p s t := by
  obtain ⟨u, hu, h⟩ := withSlave_eq_next.mp h
  split at h
  · cases h
    exact .inl rfl
  · split at h
    · cases h
    · rename_i hns _
      dsimp only at h
      split at h
      · rename_i hst
        obtain ⟨t', ht', hm⟩ := assemble_moved (w := { u with acc := u.acc ++ [b] }) hu (setSlave_frame p _ s)
          (getElem?_setSlave_self _ hu) hst
          (fun ok => ⟨ok.txq_nil (by rcases hst with k | k <;> simp [k]), fun hc => by
            obtain ⟨rest, hr⟩ := ok.collectsMagic hc
            exact ⟨rest ++ [b], by simp [hr]⟩⟩) (List.prefix_refl _)
        rw [ht'] at h
        cases h
        exact .inr hm
      · rename_i hst
        cases h
        refine .inr (PortMoved.of_setSlave hu ⟨fun ok => ?_, List.prefix_refl _, id⟩)
        rw [not_or] at hst
        exact ⟨ok.settled, fun k => absurd k hns, fun k => absurd k hst.1, fun k => absurd k hst.2, ok.sending⟩

theorem slaveTxByte_cases {p : Nat} {s t : State} (h : slaveTxByte p s = .next t) : t = s ∨ PortMoved p s t := by
  obtain ⟨u, hu, h⟩ := withSlave_eq_next.mp h
  split at h
  · cases h
    exact .inl rfl
  · rename_i b rest hb
    dsimp only at h
    split at h
    · rename_i hr
      split at h
      · cases h
        refine .inr ⟨(setSlave_frame p _ s).trans (emit_slaveFrame p _ rfl), u, _, hu, getElem?_setSlave_self _ hu, ?_⟩
        exact ⟨fun _ => SlaveOk.of_stopped rfl rfl rfl, by simp, by simp [slvTimed]⟩
      · obtain ⟨t', ht', hm⟩ := assemble_moved
          (w := { u with txOut := u.txOut ++ [b], txq := rest, state := .seeking }) hu (setSlave_frame p _ s)
          (getElem?_setSlave_self _ hu) (.inl rfl) (fun _ => ⟨hr, by simp [CollectsMagic]⟩) (by simp)
        unfold resumeSeeking at h
        rw [ht'] at h
        cases h
        exact .inr hm
    · rename_i hr
      cases h
      refine .inr (PortMoved.of_setSlave hu ⟨fun ok => ?_, by simp, id⟩)
      have hs := ok.sending.mp (by simp [hb])
      exact ⟨ok.settled, ok.stopped, ok.seeking, ok.collecting, by simp [hr, hs.1, hs.2]⟩

theorem slaveFault_cases {p : Nat} {s t : State} (h : slaveFault p s = .next t) : t = s ∨ PortMoved p s t := by
  obtain ⟨u, hu, h⟩ := withSlave_eq_next.mp h
  have hf : SlaveFrame p s (raise (.transportFault .s) s) := emit_slaveFrame p s rfl
  split at h
  · cases h
    exact .inl rfl
  · dsimp only at h
    split at h
    · obtain ⟨t', ht', hm⟩ := assemble_moved
        (m := setSlave p { u with txq := [], state := .seeking, timer := s.params.faultPause }
          (raise (.transportFault .s) s))
        (w := { u with txq := [], state := .seeking, timer := s.params.faultPause })
        hu (hf.trans (setSlave_frame p _ _))
        (getElem?_setSlave_self _ (v := u) hu) (.inl rfl) (fun _ => ⟨rfl, by simp [CollectsMagic]⟩)
        (List.prefix_refl _)
      cases (show Host.Outcome.next t = .next t' from h.symm.trans ht')
      exact .inr hm
    · rename_i hz
      cases h
      refine .inr ⟨hf.trans (setSlave_frame p _ _), u, _, hu, getElem?_setSlave_self _ (v := u) hu, ?_⟩
      refine ⟨fun ok => ?_, List.prefix_refl _, fun _ _ => hz⟩
      constructor <;> simp

theorem SlaveTicked.moved {u v : Slave} (h : SlaveTicked u v) : SlaveMoved u v := by
  rcases h with ⟨h1, h2, -, rfl⟩ | ⟨h1, h2, h3, rfl⟩ | ⟨h1, -, hA⟩ | ⟨h1, h2, rfl⟩ | ⟨-, rfl⟩
  · refine ⟨fun ok => ?_, List.prefix_refl _, by simp [slvTimed, sendTargetAck, h1]⟩
    constructor <;> simp [sendTargetAck, h1, targetAckFrame, withChecksum]
  · refine ⟨fun ok => ⟨ok.settled, ok.stopped, ok.seeking, ok.collecting, ok.sending⟩, List.prefix_refl _, ?_⟩
    exact fun _ _ hz => h3 ((timer_reaches_zero _).mp hz)
  · refine ⟨fun ok => hA.ok (ok.txq_nil (by simp [h1])) (by simp [CollectsMagic]), by rw [hA.txOut], fun _ => hA.timed⟩
  · refine ⟨fun ok => ⟨ok.settled, ok.stopped, ok.seeking, ok.collecting, ok.sending⟩, List.prefix_refl _, ?_⟩
    exact fun _ _ hz => h2 ((timer_reaches_zero _).mp hz)
  · exact SlaveMoved.refl _

/-! ## The receiver of the master -/

/-- What `M_RX(b)` can do (R161, R164): drop the byte, keep a partial frame, or deliver a verdict with the buffer
emptied. -/
theorem masterRx_cases (b : Byte) (s : State) :
    (rxOpen s = false ∧ masterRx b s = .next s) ∨
      (rxOpen s = true ∧ ∃ acc, PartialResponse acc ∧ masterRx b s = .next { s with mAcc := acc }) ∨
      (rxOpen s = true ∧ ∃ v, masterRx b s = .next (deliver v { s with mAcc := [] })) := by
  unfold masterRx
  by_cases ho : rxOpen s = true
  · rw [if_pos ho]
    dsimp only
    have hfront := resync_front rspMagic0 rspMagic1 (s.mAcc ++ [b])
    generalize resync rspMagic0 rspMagic1 (s.mAcc ++ [b]) = acc at hfront
    refine .inr ?_
    by_cases h4 : acc.length < 4
    · rw [if_pos h4]
      refine .inl ⟨ho, acc, ?_, rfl⟩
      rcases hfront with h | h | ⟨rest, h⟩
      · exact .inl h
      · exact .inr (.inl h)
      · exact .inr (.inr ⟨rest, h, .inl h4⟩)
    · rw [if_neg h4]
      split
      · exact .inr ⟨ho, _, rfl⟩
      · rename_i len hlen
        by_cases hl : acc.length < len
        · rw [if_pos hl]
          refine .inl ⟨ho, acc, ?_, rfl⟩
          rcases hfront with h | h | ⟨rest, h⟩
          · simp [h] at h4
          · simp [h] at h4
          · exact .inr (.inr ⟨rest, h, .inr ⟨len, hlen, hl⟩⟩)
        · rw [if_neg hl]
          refine .inr ⟨ho, ?_⟩
          unfold runResponseWindow
          split
          · rename_i i rest h
            unfold decodeResponseFrame at h
            split at h
            · split at h
              · cases h
              · split at h
                · split at h
                  · cases h; exact ⟨_, rfl⟩
                  · cases h
                · split at h
                  · split at h
                    · cases h; exact ⟨_, rfl⟩
                    · cases h
                  · cases h
            · cases h
          · exact ⟨_, rfl⟩
  · rw [if_neg ho]
    exact .inl ⟨by simpa using ho, rfl⟩

/-! ## One event -/

/-- What event `e` can do at `s`. -/
inductive Happened : Input → State → State → Prop where
  | host {c : List Byte} {i : Instr} {left : List Byte} {s t : State} (hd : decode c = .ok (i, left))
      (hi : i.isHostOp = true) (h : exec i s = .next t) : Happened (.host c) s t
  | tick {s t : State} (h : Ticked (List.range (s.slaves.length + 1)) s t) : Happened .tick s t
  | none {e : Input} {s : State} : Happened e s s
  | received {b : Byte} {s : State} (acc : List Byte) (ho : rxOpen s = true) (ha : PartialResponse acc) :
      Happened (.mRx b) s { s with mAcc := acc }
  | judged {b : Byte} {s : State} (v : Verdict) (ho : rxOpen s = true) :
      Happened (.mRx b) s (deliver v { s with mAcc := [] })
  | sent {s : State} : Happened .mTxByte s (masterTxByte s)
  | fault {s : State} : Happened .mXfault s (masterFault s)
  | granted {u : MasterUnit} {s : State} (h : grantEnabled s u = true) : Happened (.grant u) s (grant u s)
  | skipped {s : State} (h : skipEnabled s = true) : Happened .pollSkip s (pollSkip s)
  | port {e : Input} {p : Nat} {s t : State} (h : PortMoved p s t) : Happened e s t

/-- An event that has a next state did one of these. -/
theorem handle_cases {e : Input} {s t : State} (h : handle e s = .next t) : Happened e s t := by
  cases e with
  | tick =>
    obtain ⟨t', ht', hT⟩ := tick_spec s
    cases h.symm.trans ht'
    exact .tick hT
  | mRx b =>
    rcases masterRx_cases b s with ⟨-, h'⟩ | ⟨ho, acc, ha, h'⟩ | ⟨ho, v, h'⟩
    · cases h.symm.trans h'; exact .none
    · cases h.symm.trans h'; exact .received acc ho ha
    · cases h.symm.trans h'; exact .judged v ho
  | mTxByte => cases h; exact .sent
  | sRx p b =>
    rcases slaveRx_cases h with rfl | h
    · exact .none
    · exact .port h
  | sTxByte p =>
    rcases slaveTxByte_cases h with rfl | h
    · exact .none
    · exact .port h
  | mXfault => cases h; exact .fault
  | sXfault p =>
    rcases slaveFault_cases h with rfl | h
    · exact .none
    · exact .port h
  | host c =>
    simp only [handle, hostCommand] at h
    split at h
    · cases h
    · rename_i i left hd
      split at h
      · rename_i hi
        exact .host hd hi h
      · cases h
  | grant u =>
    simp only [handle, grantStep] at h
    split at h
    · rename_i he
      cases h
      exact .granted he
    · cases h
  | pollSkip =>
    simp only [handle, skipStep] at h
    split at h
    · rename_i he
      cases h
      exact .skipped he
    · cases h

/-- The step of an event that is given next. -/
theorem onEvent_eq (e : Input) (s : State) : onEvent e s = handle e s := by
  simp [onEvent, step, stepEvent]

/-- The internal choice is an enabled event, and none where none is enabled (R172). -/
theorem internalChoice_cases (s : State) :
    (internalChoice s = none ∧ enabledInternal s = []) ∨ ∃ e, internalChoice s = some e ∧ e ∈ enabledInternal s := by
  unfold internalChoice
  cases hen : enabledInternal s with
  | nil => exact .inl ⟨rfl, rfl⟩
  | cons e es =>
    have hlt : Config.arbPolicy s.freeCount % (es.length + 1) < (e :: es).length := Nat.mod_lt _ (by simp)
    refine .inr ⟨_, rfl, ?_⟩
    rw [List.getD_eq_getElem?_getD, List.getElem?_eq_getElem hlt, Option.getD_some]
    exact List.getElem_mem hlt

/-- What a step does, by the event it takes: with none, nothing happens; else that event, at the state that has counted
it. -/
theorem step_event {s t : State} (h : step s = .next t) :
    (nextEvent s = none ∧ s.inputs = [] ∧ enabledInternal s = [] ∧ t = s) ∨
      ∃ (e : Input) (rest : List Input) (n : Nat), nextEvent s = some e ∧
        (s.inputs = e :: rest ∨ (s.inputs = [] ∧ rest = [] ∧ e ∈ enabledInternal s)) ∧
        handle e { s with inputs := rest, freeCount := n } = .next t := by
  unfold step stepEvent at h
  unfold nextEvent
  cases hin : s.inputs with
  | cons e rest =>
    rw [hin] at h
    exact .inr ⟨e, rest, s.freeCount, rfl, .inl rfl, h⟩
  | nil =>
    rw [hin] at h
    have hs : ∀ n, ({ s with inputs := [], freeCount := n } : State) = { s with freeCount := n } := by
      intro n; rw [← hin]
    unfold internalStep at h
    rcases internalChoice_cases s with ⟨hc, he⟩ | ⟨e, hc, he⟩
    · rw [hc] at h
      cases h
      exact .inl ⟨hc, rfl, he, rfl⟩
    · rw [hc] at h
      dsimp only at h
      split at h
      · refine .inr ⟨e, [], s.freeCount, hc, .inr ⟨rfl, rfl, he⟩, ?_⟩
        rw [hs]
        exact h
      · refine .inr ⟨e, [], s.freeCount + 1, hc, .inr ⟨rfl, rfl, he⟩, ?_⟩
        rw [hs]
        exact h

/-- What a step can do: nothing is enabled and nothing happens; or an event happens, the next one given or an enabled
internal one, at the state that has counted it. -/
theorem step_cases {s t : State} (h : step s = .next t) :
    (s.inputs = [] ∧ enabledInternal s = [] ∧ t = s) ∨
      ∃ (e : Input) (rest : List Input) (n : Nat), (s.inputs = e :: rest ∨ (s.inputs = [] ∧ e ∈ enabledInternal s)) ∧
        Happened e { s with inputs := rest, freeCount := n } t := by
  rcases step_event h with ⟨-, h⟩ | ⟨e, rest, n, -, hin | ⟨hin, -, he⟩, hH⟩
  · exact .inl h
  · exact .inr ⟨e, rest, n, .inl hin, handle_cases hH⟩
  · exact .inr ⟨e, rest, n, .inr ⟨hin, he⟩, handle_cases hH⟩

end Sys2Proof.Machine
end

