-- ==== Sys2Proof/Tests/Slice0.lean ====
section
/-! SUPPORT. Tests on fixed values. The expected values come from the spec: the encodings of 30_encoding.md (R91 to R93,
R104), the vectors of 95_test_vectors.md (V40 to V60), or a hand calculation from the rule a comment names; the operand
bytes of host operations follow notes/assumptions/3.md. After them, one witness for each statement with hypotheses. -/

namespace Sys2Proof.Tests

open Sys2Proof Sys2Proof.Machine

/-! ## Helpers -/

/-- The parameters that 95_test_vectors.md uses. -/
def testParams : Params :=
  { pollDelay := 10, pollReadTimeout := 20, scanRetrySleep := 2, faultPause := 50, slaveDelayMin := 0,
    slaveDelayMax := 5, accDepth := none }

/-- The state after reset with those parameters, a map of zeros and one port. -/
def quiet : State :=
  { State.resetWith 1 with
    params := testParams, rpmMap := Vector.replicate 64 0 }

/-- Port 0's listener in state `st` with phase `ph` and `acc` received so far. -/
def listener (st : SlvState) (ph : SlvPhase) (acc : List Byte) : Slave :=
  { Slave.reset with state := st, phase := ph, acc := acc }

/-- The state in which port 0's unit is `u`. -/
def withUnit (u : Slave) : State := { quiet with slaves := [u] }

/-- SC waits for the acknowledgment of its last attempt on id 3. -/
def scWaits : State :=
  { quiet with
    lock := .held .sc
    txn := { req := [0x49, 0x53, 3, 6, 0x05, 0xDC, 0x86], elapsed := 0 }
    sc := { state := .await, id := 3, rpm := 1500, left := 1, timeout := 5, backoff := 3, timer := 1, sent := 1 } }

/-- SCAN waits for the answer of id 2, the first of two. -/
def scanWaits : State :=
  { quiet with
    lock := .held .scan
    txn := { req := [0x49, 0x53, 2, 5, 0, 0, 0xA3], elapsed := 0 }
    scan := { state := .await, cur := 2, hi := 3, retries := 0, left := 1, interDelay := 0, readTimeout := 5,
              timer := 1, result := 0 } }

/-- POLL waits for the answer of id 3. -/
def pollWaits : State :=
  { quiet with
    idSet := 4
    lock := .held .poll
    txn := { req := [0x49, 0x53, 3, 5, 0, 0, 0xA4], elapsed := 0 }
    poll := { state := .awaitingResponse, cursor := 0, cancelReq := false, timer := 1, curId := 3 } }

/-- What a result's next state holds, none where there is no next state. -/
def after {α : Type} (r : Result) (f : State → α) : Option α :=
  match r with
  | .next t => some (f t)
  | .fault _ => none
  | .refused _ => none

/-- The reason a result is refused with, none where it is not. -/
def refusalOf (r : Result) : Option Refusal :=
  match r with
  | .next _ => none
  | .fault _ => none
  | .refused why => some why

/-- The instruction and the number of bytes left over. -/
def reads (bytes : List Byte) : Option (Instr × Nat) :=
  match decode bytes with
  | .ok (i, rest) => some (i, rest.length)
  | .error _ => none

/-! ## Ill-formed instructions are refused (WellFormed) -/

theorem test_wf_read_checksum : (Instr.reqRead 2 0 0 0xA4).wellFormed = false := by decide
theorem test_wf_set_checksum : (Instr.reqSet 2 1500 0x86).wellFormed = false := by decide
theorem test_wf_ack_checksum : (Instr.rspAck 2 1500 0x7D).wellFormed = false := by decide
theorem test_wf_rsp_checksum : (Instr.rspRead 2 1500 0x1001 0x90).wellFormed = false := by decide
/-- The checksum holds; the id is 65 (V40.7). -/
theorem test_wf_read_id : (Instr.reqRead 65 0 0 0xE2).wellFormed = false := by decide
/-- The checksum holds; the id is 0. -/
theorem test_wf_set_id : (Instr.reqSet 0 1500 0x83).wellFormed = false := by decide
theorem test_wf_decode_length : (Instr.decodeResponse [0x44, 0x54] 3).wellFormed = false := by decide
theorem test_wf_estimate_baud : (Instr.estimate 0 3 9 ⟨5, 1⟩).wellFormed = false := by decide
theorem test_wf_estimate_den : (Instr.estimate 9600 3 9 ⟨5, 0⟩).wellFormed = false := by decide
theorem test_wf_load_id : (Instr.loadRpm 65 5).wellFormed = false := by decide
theorem test_wf_read_rpm_id : (Instr.readRpm 0).wellFormed = false := by decide
theorem test_wf_good : (Instr.reqSet 64 0 0xE2).wellFormed = true := by decide

/-! ## Every constructor's decoding, from bytes written out -/

theorem test_decode_reqRead : decodeTableWord 56 0x495302050000A3 = some (.reqRead 2 0 0 0xA3) := by decide
theorem test_decode_reqSet : decodeTableWord 56 0x4953020605DC85 = some (.reqSet 2 1500 0x85) := by decide
theorem test_decode_rspAck : decodeTableWord 56 0x4454020105DC7C = some (.rspAck 2 1500 0x7C) := by decide
theorem test_decode_rspRead : decodeTableWord 72 0x4454020505DC011091 = some (.rspRead 2 1500 0x1001 0x91) := by decide
theorem test_decode_encodeRequest : reads [0, 2, 6, 5, 0xDC] = some (.encodeRequest 2 6 5 0xDC, 0) := by decide
theorem test_decode_decodeResponse : reads [1, 2, 0x44, 0x54, 9] = some (.decodeResponse [0x44, 0x54] 9, 0) := by decide
theorem test_decode_encodeTargetAck : reads [2, 5, 0x03, 0x84] = some (.encodeTargetAck 5 900, 0) := by decide
theorem test_decode_encodeReadRsp :
    reads [3, 2, 0x05, 0xDC, 0x10, 0x01] = some (.encodeReadRsp 2 1500 0x1001, 0) := by decide
theorem test_decode_alarmDecode : reads [4, 0x10, 0x01] = some (.alarmDecode 0x1001, 0) := by decide
theorem test_decode_alarmDescribe : reads [5, 0x80, 0x01] = some (.alarmDescribe 0x8001, 0) := by decide
theorem test_decode_alarmHasFault : reads [6, 0x0F, 0xF0] = some (.alarmHasFault 0x0FF0, 0) := by decide
theorem test_decode_alarmIsRemote : reads [7, 0x80, 0x00] = some (.alarmIsRemote 0x8000, 0) := by decide
theorem test_decode_scan : reads [8, 1, 6, 2, 0, 5, 0x01, 0x02] = some (.scan 1 6 2 5 258, 0) := by decide
theorem test_decode_trySet :
    reads [9, 2, 0x05, 0xDC, 3, 0, 50, 0x01, 0x00] = some (.trySet 2 1500 3 50 256, 0) := by decide
theorem test_decode_pollStart : reads [10] = some (.pollStart, 0) := by decide
theorem test_decode_pollCancel : reads [11] = some (.pollCancel, 0) := by decide
/-- 9600 = 75 * 128 + 0. -/
theorem test_decode_estimate : reads [12, 0x80, 75, 3, 9, 5, 1] = some (.estimate 9600 3 9 ⟨5, 1⟩, 0) := by decide
theorem test_decode_queueSet : reads [13, 5, 0x03, 0x84] = some (.queueSet 5 900, 0) := by decide
theorem test_decode_setMaxRpm : reads [14, 0x13, 0x88] = some (.setMaxRpm 5000, 0) := by decide
theorem test_decode_loadIdSet :
    reads [15, 0x80, 0, 0, 0, 0, 0, 0x01, 0x12] = some (.loadIdSet 0x8000000000000112, 0) := by decide
theorem test_decode_setAlarm : reads [16, 0x0F, 0xF0] = some (.setAlarm 0x0FF0, 0) := by decide
theorem test_decode_loadRpm : reads [17, 64, 0x07, 0xD0] = some (.loadRpm 64 2000, 0) := by decide
theorem test_decode_readRpm : reads [18, 9, 0xFF] = some (.readRpm 9, 1) := by decide
theorem test_decode_slaveStart : reads [19, 0] = some (.slaveStart 0, 0) := by decide
theorem test_decode_slaveStop : reads [20, 0x80, 1] = some (.slaveStop 128, 0) := by decide
/-- R105: op numbers 21..31 are no operations. -/
theorem test_decode_op31 : reads [31, 0, 0] = none := by decide
/-- R102 (c): the TargetAck code in a request. -/
theorem test_decode_ack_code_in_request : reads [0x49, 0x53, 2, 1, 0x05, 0xDC, 0x80] = none := by decide

/-! ## One step of each instruction -/

/-- V40.1. -/
theorem test_sum8_wraps : sum8 [0xFF, 0xFF, 0xFF, 0xFF, 0xFF, 0xFF] = 0xFA := by decide

/-- V40.8. -/
theorem test_resync : resync 0x44 0x54 [0x54, 0x44, 0x44, 0x54, 0x01] = [0x44, 0x54, 0x01] := by decide

/-- V40.2: id 200 becomes 64, nothing else is checked. -/
theorem test_encodeRequest_clamps : after (exec (.encodeRequest 200 6 0x07 0xD0) quiet) (·.retOut) =
    some [.frame [0x49, 0x53, 0x40, 0x06, 0x07, 0xD0, 0xB9]] := by decide

/-- V40.6. -/
theorem test_decodeResponse_alarm_order :
    after (exec (.decodeResponse [0x44, 0x54, 2, 5, 0x05, 0xDC, 0x01, 0x10, 0x91] 9) quiet) (·.retOut) =
      some [.parsed (.readRsp 2 1500 0x1001)] := by decide

/-- V40.6: 9 bytes present, only 7 declared valid. -/
theorem test_decodeResponse_truncated :
    after (exec (.decodeResponse [0x44, 0x54, 2, 5, 0x05, 0xDC, 0x01, 0x10, 0x91] 7) quiet) (·.retOut) =
      some [.decodeError .truncated] := by decide

/-- V40.4. -/
theorem test_encodeTargetAck : after (exec (.encodeTargetAck 200 2001) quiet) (·.retOut) =
    some [.frame [0x44, 0x54, 0xC8, 0x01, 0x07, 0xD1, 0x39]] := by decide

/-- V40.5. -/
theorem test_encodeReadRsp : after (exec (.encodeReadRsp 9 1200 0x8000) quiet) (·.retOut) =
    some [.frame [0x44, 0x54, 0x09, 0x05, 0x04, 0xB0, 0x00, 0x80, 0xDA]] := by decide

/-- S4: 0x1001 is OverCurrentOrHall and AbnormalAnyAlarm, LocalMode clear. -/
theorem test_alarmDecode : after (exec (.alarmDecode 0x1001) quiet) (·.retOut) =
    some [.alarmFlags ⟨true, false, false, false, 0, true, false, false, false⟩] := by decide

/-- V41. -/
theorem test_alarmDescribe : after (exec (.alarmDescribe 0xFFFF) quiet) (·.retOut) =
    some [.conditions [0, 1, 2, 3, 12, 13, 14]] := by decide

/-- V41: the reserved bits are no fault. -/
theorem test_alarmHasFault_reserved : after (exec (.alarmHasFault 0x8FF0) quiet) (·.retOut) = some [.bit false] := by
  decide

/-- V41: the aggregate bit alone is a fault. -/
theorem test_alarmHasFault_aggregate : after (exec (.alarmHasFault 0x1000) quiet) (·.retOut) = some [.bit true] := by
  decide

/-- V41. -/
theorem test_alarmIsRemote : after (exec (.alarmIsRemote 0x8000) quiet) (·.retOut) = some [.bit false] := by decide

/-- V43.1: an empty range is done at once. -/
theorem test_scan_empty : after (exec (.scan 65 200 0 0 5) { quiet with idSet := 1 })
    (fun t => (t.idSet, t.scan.state, t.evOut)) = some (0, .idle, [.scanDone 0]) := by decide

/-- V43.1: 63..255 is clipped to 63..64. -/
theorem test_scan_clips : after (exec (.scan 63 255 0 0 5) { quiet with idSet := 1 })
    (fun t => (t.scan.cur, t.scan.hi, t.scan.state, t.idSet)) = some (63, 64, .lockWait, 1) := by decide

/-- V44.1. -/
theorem test_trySet_clamps : after (exec (.trySet 0 9999 1 0 0) quiet)
    (fun t => (t.sc.id, t.sc.rpm, t.sc.left, t.sc.state)) = some (1, 1500, 2, .lockWait) := by decide

/-- V44.4. -/
theorem test_trySet_busy : refusalOf (exec (.trySet 5 200 0 50 0) scWaits) = some (.notAccepted "TRYSET") := by decide

/-- R240. -/
theorem test_pollStart : after (exec .pollStart quiet) (·.poll.state) = some .idle := by decide

/-- R241: a cancel during a transaction is only noted. -/
theorem test_pollCancel_pending : after (exec .pollCancel pollWaits)
    (fun t => (t.poll.state, t.poll.cancelReq, t.evOut)) = some (.awaitingResponse, true, []) := by decide

/-- V45.6 (a). -/
theorem test_pollCancel_sleeping :
    after (exec .pollCancel { quiet with poll := { quiet.poll with state := .sleeping, timer := 6 } })
      (fun t => (t.poll.state, t.poll.timer, t.evOut)) = some (.cancelled, 0, [.pollStopped]) := by decide

/-- V45.7: 1400/3 ms. -/
theorem test_estimate : after (exec (.estimate 19200 64 7 ⟨0, 1⟩) quiet) (·.retOut) = some [.millis ⟨1400, 3⟩] := by
  decide

/-- V45.7. -/
theorem test_estimate_baud : refusalOf (exec (.estimate 0 3 9 ⟨5, 1⟩) quiet) = some (.notAccepted "ESTIMATE") := by
  decide

/-- V47: SET_MAXRPM(1999), then QUEUE_SET(70, 1999). -/
theorem test_queueSet : after (exec (.queueSet 70 1999) { quiet with maxRpm := 1999 }) (·.pend) =
    some { valid := true, id := 64, rpm := 1999 } := by decide

/-- V47. -/
theorem test_setMaxRpm_saturates : after (exec (.setMaxRpm 5000) quiet) (·.maxRpm) = some 2000 := by decide

/-- V47. -/
theorem test_loadIdSet : after (exec (.loadIdSet 0x112) quiet) (fun t => members t.idSet) = some [2, 5, 9] := by decide

/-- V47: nth({1, 64}, 1) = 64. -/
theorem test_nth_last : nth 0x8000000000000001 1 = 64 := by decide

/-- R314. -/
theorem test_setAlarm : after (exec (.setAlarm 0x0FF0) quiet) (·.sAlarm) = some 0x0FF0 := by decide

/-- V47: LOAD_RPM(64, 2000), then READ_RPM(64). -/
theorem test_loadRpm : after (exec (.loadRpm 64 2000) quiet) (fun t => (readMap t 64, readMap t 63)) = some (2000, 0) := by
  decide

/-- V47. -/
theorem test_loadRpm_id0 : refusalOf (exec (.loadRpm 0 5) quiet) = some (.notAccepted "LOAD_RPM") := by decide

/-- V47. -/
theorem test_readRpm : after (exec (.readRpm 9) quiet) (·.retOut) = some [.rpm 0] := by decide

/-- R317. -/
theorem test_slaveStart : after (exec (.slaveStart 0) quiet) (fun t => t.slaves.map (·.state)) = some [.seeking] := by
  decide

/-- V46.5: a stop during a transmission waits for its end. -/
theorem test_slaveStop_sending : after (exec (.slaveStop 0) (withUnit (listener .dispatching .send [])))
    (fun t => (t.slaves.map (·.cancelReq), t.evOut)) = some ([true], []) := by decide

/-- V46.4: a stop during a delay takes effect at once. -/
theorem test_slaveStop_delay : after (exec (.slaveStop 0) (withUnit (listener .dispatching .delay [])))
    (fun t => (t.slaves.map (·.state), t.evOut)) = some ([.stopped], [.sStopped 0]) := by decide

/-- V47: reserved alarm bits round-trip: the response is 44 54 01 05 00 00 F0 0F 9D. -/
theorem test_reqRead : after (exec (.reqRead 1 0 0 0xA2) { withUnit (listener .validating .delay []) with sAlarm := 0x0FF0 })
    (fun t => t.slaves.map (·.txq)) = some [[0x44, 0x54, 0x01, 0x05, 0x00, 0x00, 0xF0, 0x0F, 0x9D]] := by decide

/-- V46.2: a Set with no clamp and no delay. -/
theorem test_reqSet : after (exec (.reqSet 7 65535 0xA7) { withUnit (listener .validating .delay []) with draws := [0] })
    (fun t => (readMap t 7, t.evOut, t.slaves.map (·.txq))) =
      some (65535, [.sReq 7 6 65535], [[0x44, 0x54, 0x07, 0x01, 0xFF, 0xFF, 0x9E]]) := by decide

/-- V46.1: the checksum holds, the id is 65. -/
theorem test_reqRead_id : after (exec (.reqRead 65 0 0 0xE2) (withUnit (listener .validating .delay [])))
    (fun t => (t.evOut, t.slaves.map (·.state))) = some ([.decodeErr .slv .idOutOfRange], [.seeking]) := by decide

/-- V44.3: the RPM is not SC's: dispatched, but no confirmation. -/
theorem test_rspAck_other_rpm : after (exec (.rspAck 3 1499 0x7C) scWaits)
    (fun t => (t.evOut, t.sc.state, readMap t 3)) = some ([.ack 3 1499], .await, 1499) := by decide

/-- R215: the matching acknowledgment. -/
theorem test_rspAck_confirms : after (exec (.rspAck 3 1500 0x7D) scWaits)
    (fun t => (t.lock, t.sc.state, t.evOut.length)) = some (.free, .idle, 3) := by decide

/-- V45.5: a foreign response closes the poll cycle. -/
theorem test_rspRead_closes_cycle : after (exec (.rspRead 9 77 0x4000 0x33) pollWaits)
    (fun t => (readMap t 9, t.poll.state, t.poll.timer)) = some (77, .sleeping, 10) := by decide

/-- V45.4: the damaged frame closes the cycle with error = 1. -/
theorem test_rspRead_damaged : after (exec (.rspRead 3 100 0 0x05) pollWaits) (·.evOut) =
    some [.decodeErr (.master .poll) .checksumMismatch,
      .txn .poll 3 [0x49, 0x53, 3, 5, 0, 0, 0xA4] [0x44, 0x54, 3, 5, 0, 0x64, 0, 0, 0x05] 0 false true] := by decide

/-- V60.2: a timer loaded in a tick is not decremented in it. -/
theorem test_tick_loads_backoff : after (onEvent .tick { scWaits with sc := { scWaits.sc with left := 2 } })
    (fun t => (t.sc.state, t.sc.timer, t.sc.left)) = some (.backoff, 3, 1) := by decide

/-- V46.3: the rest of a dropped window begins the next candidate. -/
theorem test_window_resync :
    after (onEvent (.sRx 0 0x02) (withUnit (listener .collecting .delay [0x49, 0x53, 2, 5, 0x49, 0x53])))
      (fun t => (t.evOut, t.slaves.map (·.acc))) = some ([.decodeErr .slv .checksumMismatch], [[]]) := by decide

/-! ## withFetchWord: the next step runs the instruction -/

theorem test_fetch_host : after (step (quiet.withFetchWord 8 10)) (·.poll.state) = some .idle := by decide
theorem test_fetch_request : after (step (quiet.withFetchWord 56 0x495302050000A3)) (·.evOut) = some [.sReq 2 5 0] := by
  decide
/-- In an instance without slave units a listener is placed for the instruction. -/
theorem test_fetch_slaveStart : after (step ((State.resetWith 0).withFetchWord 8 19))
    (fun t => t.slaves.map (·.state)) = some [.seeking] := by decide
theorem test_fetch_response : after (step (quiet.withFetchWord 56 0x4454020105DC7C)) (·.evOut) =
    some [.ack 2 1500] := by decide

/-! ## A witness for each statement with hypotheses

Each theorem shows a state and operands that meet a statement's hypotheses together; where a statement has several
clauses, each clause has its own, at a boundary of its range. Statements without hypotheses have none. -/

theorem witness_ResyncKeepsTheLongestCandidate :
    [0x49, 0x53] <:+ ([0x00, 0x49, 0x53] : List Byte) ∧ CouldBegin 0x49 0x53 [0x49, 0x53] :=
  ⟨⟨[0x00], rfl⟩, .inr (.inr ⟨[], rfl⟩)⟩

theorem witness_DecodeResponseTestsInOrder : 7 ≤ ([0x44, 0x54, 2, 1, 0x05, 0xDC, 0x7C] : List Byte).length := by decide

/-- A response is parsed there. -/
theorem witness_DecodeResponseTestsInOrder_parsed :
    after (exec (.decodeResponse [0x44, 0x54, 2, 1, 0x05, 0xDC, 0x7C] 7) quiet) (·.retOut) =
      some [.parsed (.ack 2 1500)] := by decide

theorem witness_AlarmDescribeListsSetConditions : (14 ∈ [0, 1, 2, 3, 12, 13, 14]) ∧ (0x4000 : Word16).getLsbD 14 = true := by
  decide

theorem witness_EstimateIsTheExactFormula : 0 < 1 ∧ 0 < (⟨0, 1⟩ : Fraction).den ∧ (0 : Nat) = 0 := by decide

theorem witness_TrySetLatchesItsOperands : quiet.sc.state = .idle ∧ scWaits.sc.state ≠ .idle := by decide

/-- An empty range by one id, a range of one id at each end, and a scan in progress. -/
theorem witness_ScanClipsItsRange :
    quiet.scan.state = .idle ∧ min (1 : Byte).toNat 64 < max (2 : Byte).toNat 1 ∧
      max (0 : Byte).toNat 1 ≤ min (1 : Byte).toNat 64 ∧ max (64 : Byte).toNat 1 ≤ min (255 : Byte).toNat 64 ∧
      scanWaits.scan.state ≠ .idle := by decide

/-- POLL in state `st`. -/
def pollIn (st : PollState) : State := { quiet with poll := { quiet.poll with state := st } }

theorem witness_PollStartAndCancel :
    quiet.poll.state = .cancelled ∧ pollWaits.poll.state ≠ .cancelled ∧ (pollIn .idle).poll.state = .idle ∧
      (pollIn .sleeping).poll.state = .sleeping ∧ (pollIn .transmitting).poll.state = .transmitting ∧
      pollWaits.poll.state = .awaitingResponse := by decide

theorem witness_SlaveStartAndStop :
    quiet.slaves[0]? = some Slave.reset ∧ Slave.reset.state = .stopped ∧
      (∀ st ∈ [SlvState.seeking, .collecting, .paused],
        (withUnit (listener st .delay [])).slaves[0]? = some (listener st .delay []) ∧
          (listener st .delay []).state = st ∧ st ≠ .stopped) ∧
      (∀ ph ∈ [SlvPhase.delay, .send],
        (withUnit (listener .dispatching ph [])).slaves[0]? = some (listener .dispatching ph []) ∧
          (listener .dispatching ph []).state = .dispatching ∧ (listener .dispatching ph []).phase = ph) := by decide

/-- Both ends of the range, and both ids next to it. -/
theorem witness_LoadAndReadOneMapEntry :
    (1 ≤ (1 : Byte).toNat ∧ (1 : Byte).toNat ≤ 64) ∧ (1 ≤ (64 : Byte).toNat ∧ (64 : Byte).toNat ≤ 64) ∧
      (0 : Byte).toNat = 0 ∧ 64 < (65 : Byte).toNat := by decide

theorem witness_OperationsNotAccepted :
    (21 ≤ (21 : Byte).toNat ∧ (21 : Byte).toNat ≤ 31) ∧ (21 ≤ (31 : Byte).toNat ∧ (31 : Byte).toNat ≤ 31) ∧
      scWaits.sc.state ≠ .idle ∧ scanWaits.scan.state ≠ .idle ∧ pollWaits.poll.state ≠ .cancelled ∧
      (withUnit (listener .seeking .delay [])).slaves[0]? = some (listener .seeking .delay []) ∧
      (listener .seeking .delay []).state ≠ .stopped ∧ 64 < (65 : Byte).toNat := by decide

/-- A state whose only listener has received ten bytes and whose accumulator holds no more. -/
def fullState : State :=
  { withUnit (listener .paused .delay (List.replicate 10 0)) with params := { testParams with accDepth := some 10 } }

theorem witness_ChoicesBesideTheRules :
    ([] : List Byte).length < 1 ∧ 0 < 9600 ∧ 0 < (⟨5, 2⟩ : Fraction).den ∧ (⟨5, 0⟩ : Fraction).den = 0 ∧
      quiet.slaves.length ≤ 1 ∧ fullState.slaves[0]? = some (listener .paused .delay (List.replicate 10 0)) ∧
      (listener .paused .delay []).state ≠ .stopped ∧ fullState.params.accDepth = some 10 ∧
      10 ≤ (listener .paused .delay (List.replicate 10 0)).acc.length ∧
      reads [0x49, 0x53, 2, 5, 0, 0, 0xA3] = some (.reqRead 2 0 0 0xA3, 0) ∧
      (Instr.reqRead 2 0 0 0xA3).isHostOp = false := by decide

theorem witness_SetRequestIsLatchedAndFiled :
    quiet.slaves[quiet.activePort]? = some Slave.reset ∧ (1 ≤ (1 : Byte).toNat ∧ (1 : Byte).toNat ≤ 64) ∧
      (1 ≤ (64 : Byte).toNat ∧ (64 : Byte).toNat ≤ 64) := by decide

/-- A drawn delay at each bound, and a delay that runs, at its last tick and before. -/
theorem witness_SetIsAcknowledgedAfterTheDelay :
    quiet.slaves[quiet.activePort]? = some Slave.reset ∧
      quiet.params.slaveDelayMin.toNat ≤ quiet.params.slaveDelayMax.toNat ∧
      quiet.params.slaveDelayMin.toNat ≤ (5 : Word16).toNat ∧ (5 : Word16).toNat ≤ quiet.params.slaveDelayMax.toNat ∧
      ({ quiet with draws := [0] } : State).draws = 0 :: [] ∧
      (withUnit { listener .dispatching .delay [] with timer := 1 }).slaves[0]? =
        some { listener .dispatching .delay [] with timer := 1 } := by decide

theorem witness_ReadRequestIsAnsweredAtOnce :
    quiet.slaves[quiet.activePort]? = some Slave.reset ∧ (1 ≤ (1 : Byte).toNat ∧ (1 : Byte).toNat ≤ 64) ∧
      (1 ≤ (64 : Byte).toNat ∧ (64 : Byte).toNat ≤ 64) := by decide

/-- One window for each reason: V40.7's, and the six bytes before a last one. -/
theorem witness_DroppedRequestWindows :
    quiet.slaves[quiet.activePort]? = some Slave.reset ∧
      (0xA4 : Byte).toNat ≠ (0x49 + 0x53 + 2 + 0x05 + 0 + 0) % 256 ∧
      (0xE2 : Byte).toNat = (0x49 + 0x53 + 65 + 0x05 + 0 + 0) % 256 ∧
      (0xA1 : Byte).toNat = (0x49 + 0x53 + 0 + 0x05 + 0 + 0) % 256 ∧
      (0xA2 : Byte).toNat = (0x49 + 0x53 + 0 + 0x06 + 0 + 0) % 256 ∧
      (0x80 : Byte).toNat = (0x49 + 0x53 + 2 + 0x01 + 0x05 + 0xDC) % 256 ∧
      (withUnit (listener .collecting .delay [0x49, 0x53, 2, 1, 0x05, 0xDC])).slaves[0]? =
        some (listener .collecting .delay [0x49, 0x53, 2, 1, 0x05, 0xDC]) := by decide

/-- An accumulator without bound, one with fewer than seven bytes, and one with room for one byte. -/
theorem witness_BytesForABusyListener :
    quiet.slaves[0]? = some Slave.reset ∧ Slave.reset.state = .stopped ∧
      (withUnit (listener .dispatching .send [])).slaves[0]? = some (listener .dispatching .send []) ∧
      (withUnit (listener .dispatching .send [])).params.accDepth = none ∧
      (listener .paused .delay [1, 2, 3, 4, 5, 6]).acc.length < 7 ∧
      (listener .paused .delay (List.replicate 9 0)).acc.length < 10 := by decide

/-- A unit that sends `q`. -/
def sending (q : List Byte) (cancel : Bool) : Slave :=
  { listener .dispatching .send [] with txq := q, cancelReq := cancel }

theorem witness_ResponseLeavesByteByByte :
    quiet.slaves[0]? = some Slave.reset ∧ Slave.reset.txq = [] ∧
      (withUnit (sending [1, 2] false)).slaves[0]? = some (sending [1, 2] false) ∧
      (sending [1, 2] false).txq = 1 :: 2 :: [] ∧
      (∀ c ∈ [true, false], (withUnit (sending [1] c)).slaves[0]? = some (sending [1] c) ∧
        (sending [1] c).txq = [1] ∧ (sending [1] c).cancelReq = c) := by decide

/-- A paused unit, with `n` ticks to go. -/
def paused (n : Word16) : Slave := { listener .paused .delay [0x49, 0x53] with timer := n }

/-- The pause at its end and before, and no other timer running. -/
theorem witness_SlaveFaultPausesTheListener :
    (quiet.slaves[0]? = some Slave.reset ∧ Slave.reset.state = .stopped ∧
      (withUnit (listener .seeking .delay [])).slaves[0]? = some (listener .seeking .delay []) ∧
      (listener .seeking .delay []).state ≠ .stopped ∧ quiet.params.faultPause ≠ 0 ∧
      ({ testParams with faultPause := 0 } : Params).faultPause = 0 ∧
      (withUnit (paused 1)).slaves[0]? = some (paused 1) ∧ (paused 1).state = .paused ∧ (paused 1).timer = 1 ∧
      (withUnit (paused 2)).slaves[0]? = some (paused 2) ∧ (paused 2).timer ≠ 1 ∧
      pollTimed (withUnit (paused 1)) = false ∧ scTimed (withUnit (paused 1)) = false ∧
      scanTimed (withUnit (paused 1)) = false) ∧
      ∀ q v, q ≠ 0 → (withUnit (paused 1)).slaves[q]? = some v → slvTimed v = false := by
  refine ⟨by decide, fun q v hq h => ?_⟩
  cases q with
  | zero => exact absurd rfl hq
  | succ q => simp [withUnit] at h

/-- A listener with the bytes `acc`. -/
def buffered (st : SlvState) (acc : List Byte) : State := withUnit (listener st .delay acc)

/-- Seeking with one and with two bytes left, collecting with six, and one window for each way it can end, with a byte
behind it. -/
theorem witness_AssemblerTakesEachWindow :
    (∀ st ∈ [SlvState.seeking, .collecting], ∀ acc ∈ ([[0x00, 0x49], [0x00, 0x49, 0x53]] : List (List Byte)),
      (buffered st acc).slaves[0]? = some (listener st .delay acc) ∧ (listener st .delay acc).state = st) ∧
      (resync 0x49 0x53 [0x00, 0x49]).length < 2 ∧ 2 ≤ (resync 0x49 0x53 [0x00, 0x49, 0x53]).length ∧
      (listener .collecting .delay [0x49, 0x53, 2, 5, 0, 0]).acc.length < 7 ∧
      (listener .collecting .delay [0x49, 0x53, 2, 5, 0, 0, 0xA3, 0x49]).acc =
        0x49 :: 0x53 :: 2 :: 5 :: 0 :: 0 :: 0xA3 :: [0x49] ∧
      (0xA4 : Byte).toNat ≠ (0x49 + 0x53 + 2 + 5 + 0 + 0) % 256 ∧
      (0xE2 : Byte).toNat = (0x49 + 0x53 + 65 + 5 + 0 + 0) % 256 ∧
      (0x80 : Byte).toNat = (0x49 + 0x53 + 2 + 1 + 0x05 + 0xDC) % 256 ∧
      (0xA3 : Byte).toNat = (0x49 + 0x53 + 2 + 5 + 0 + 0) % 256 ∧
      (0x85 : Byte).toNat = (0x49 + 0x53 + 2 + 6 + 0x05 + 0xDC) % 256 := by decide

/-- A damaged window, then V40.7's Read, then a byte of the next frame, all found at once by the last byte of a
response. -/
theorem test_buffered_windows :
    after (onEvent (.sTxByte 0) (withUnit { listener .dispatching .send
        [0x49, 0x53, 2, 5, 0, 0, 0xA4, 0x49, 0x53, 2, 5, 0, 0, 0xA3, 0x49] with txq := [0] }))
      (fun t => (t.evOut, t.slaves.map (·.acc))) =
        some ([.decodeErr .slv .checksumMismatch, .sReq 2 5 0], [[0x49]]) := by decide

/-- S8's stream. -/
theorem witness_SlaveRecoversFromACorruptedFrame :
    (withUnit (listener .seeking .delay [])).slaves[0]? = some (listener .seeking .delay []) ∧
      (listener .seeking .delay []).acc = [] ∧ (1 ≤ (64 : Byte).toNat ∧ (64 : Byte).toNat ≤ 64) ∧ 1 ≤ (2 : Byte).toNat ∧ (2 : Byte).toNat ≤ 64 ∧
      (0x86 : Byte).toNat ≠ (0x49 + 0x53 + 2 + 0x06 + 0x05 + 0xDC) % 256 := by decide

theorem slavesInv_quiet : SlavesInv quiet := by
  intro u hu
  simp only [quiet, State.resetWith, List.replicate, List.mem_singleton] at hu
  subst hu
  constructor <;> simp [Slave.reset]

theorem quiet_drops_byte : after (onEvent (.sRx 0 0x49) quiet) (fun t => t.evOut.length) = some 0 := by decide

/-- The master side differs, the unit does not. -/
theorem witness_PortsShareOnlyTheMap :
    quiet.slaves[0]? = scWaits.slaves[0]? ∧ quiet.rpmMap = scWaits.rpmMap ∧ quiet.sAlarm = scWaits.sAlarm ∧
      quiet.params = scWaits.params ∧ quiet.draws = scWaits.draws ∧ quiet.freeCount = scWaits.freeCount ∧
      SlavesInv quiet ∧ after (onEvent (.sRx 0 0x49) quiet) (fun t => t.evOut.length) = some 0 :=
  ⟨rfl, rfl, rfl, rfl, rfl, rfl, slavesInv_quiet, quiet_drops_byte⟩

theorem witness_RequestLeavesAndWindowOpens :
    scWaits.lock = .held .sc ∧ scWaits.mTxq = [] ∧ ({ scWaits with mTxq := [1, 2] } : State).mTxq = 1 :: 2 :: [] ∧
      ({ scWaits with mTxq := [1] } : State).mTxq = [1] := by decide

/-- Each way a byte can end: a partial header, an unknown Command, a partial frame, a frame that parses, one that
does not. -/
theorem witness_ReassemblerJudgesEachWindow :
    rxOpen quiet = false ∧ rxOpen scWaits = true ∧ (resync 0x44 0x54 ([0x44, 0x54] ++ [3])).length < 4 ∧
      (4 ≤ (resync 0x44 0x54 ([0x44, 0x54, 3] ++ [6])).length ∧ (6 : Byte) ≠ 0x01 ∧ (6 : Byte) ≠ 0x05) ∧
      (resync 0x44 0x54 ([0x44, 0x54, 3, 1, 0x05] ++ [0xDC])).length < 7 ∧
      7 ≤ (resync 0x44 0x54 ([0x44, 0x54, 3, 1, 0x05, 0xDC] ++ [0x7D])).length ∧
      decodeResult (decodeResponse [0x44, 0x54, 3, 1, 0x05, 0xDC, 0x7D] 7) = .parsed (.ack 3 1500) ∧
      decodeResult (decodeResponse [0x44, 0x54, 3, 1, 0x05, 0xDC, 0x82] 7) = .decodeError .checksumMismatch := by decide

theorem witness_ResponsesAreFiledAndPublished :
    (1 ≤ 1 ∧ 1 ≤ 64) ∧ (1 ≤ 64 ∧ 64 ≤ 64) ∧ scWaits.lock = .held .sc ∧ scWaits.sc.state = .await := by decide

theorem witness_MatchingAckConfirmsTheSet :
    scWaits.lock = .held .sc ∧ scWaits.sc.state = .await ∧
      ParsedResponse.ack 3 1500 = .ack (BitVec.ofNat 8 scWaits.sc.id.toNat) scWaits.sc.rpm ∧
      ParsedResponse.ack 3 1499 ≠ .ack (BitVec.ofNat 8 scWaits.sc.id.toNat) scWaits.sc.rpm := by decide

/-- Also with the last id probed, and with a delay between ids. -/
theorem witness_AnsweredProbeIsRecorded :
    scanWaits.lock = .held .scan ∧ scanWaits.scan.state = .await ∧ scanWaits.scan.cur ≠ scanWaits.scan.hi ∧
      ({ scanWaits.scan with cur := 3 } : Scan).cur = scanWaits.scan.hi ∧ scanWaits.scan.interDelay = 0 ∧
      ({ scanWaits.scan with interDelay := 1 } : Scan).interDelay ≠ 0 ∧
      (3 : Byte).toNat ≠ scanWaits.scan.cur.toNat := by decide

theorem witness_FirstVerdictClosesThePollCycle :
    pollWaits.lock = .held .poll ∧ pollWaits.poll.state = .awaitingResponse := by decide

/-- POLL sleeps and a listener is paused, both at their last tick. -/
def othersRun (s : State) : State :=
  { s with poll := { s.poll with state := .sleeping, timer := 1 }, slaves := [paused 1] }

/-- The last attempt, alone and while other timers run out. -/
theorem witness_DeadlineOfASetAttempt :
    scWaits.lock = .held .sc ∧ scWaits.sc.state = .await ∧ scWaits.sc.timer = 1 ∧ pollTimed scWaits = false ∧
      scanTimed scWaits = false ∧ (∀ u ∈ scWaits.slaves, slvTimed u = false) ∧ scWaits.sc.left = 1 ∧
      (othersRun scWaits).lock = .held .sc ∧ (othersRun scWaits).sc.timer = 1 ∧
      (othersRun scWaits).poll.state ≠ .awaitingResponse ∧ (othersRun scWaits).scan.state ≠ .await := by decide

theorem witness_DeadlineOfAProbe :
    scanWaits.lock = .held .scan ∧ scanWaits.scan.state = .await ∧ scanWaits.scan.timer = 1 ∧
      pollTimed scanWaits = false ∧ scTimed scanWaits = false ∧ (∀ u ∈ scanWaits.slaves, slvTimed u = false) ∧
      scanWaits.scan.left = 1 ∧ (othersRun scanWaits).lock = .held .scan ∧ (othersRun scanWaits).scan.timer = 1 ∧
      (othersRun scanWaits).poll.state ≠ .awaitingResponse ∧ (othersRun scanWaits).sc.state ≠ .await := by decide

/-- The tick at which SC's last attempt fails, POLL wakes up and a pause goes on: each has its own effect. -/
theorem test_tick_three_timers : after (onEvent .tick { othersRun scWaits with slaves := [paused 2] })
    (fun t => (t.sc.state, t.poll.state, t.slaves.map (·.timer))) = some (.idle, .idle, [1]) := by decide

theorem witness_DeadlineOfAPollCycle :
    (pollWaits.lock = .held .poll ∧ pollWaits.poll.state = .awaitingResponse ∧ pollWaits.poll.timer = 1 ∧
      scTimed pollWaits = false ∧ scanTimed pollWaits = false ∧ (∀ u ∈ pollWaits.slaves, slvTimed u = false)) ∧
      let s : State := { pollWaits with sc := { pollWaits.sc with state := .backoff, timer := 1 }, slaves := [paused 1] }
      s.lock = .held .poll ∧ s.poll.timer = 1 ∧ s.sc.state ≠ .await ∧ s.scan.state ≠ .await := by decide

/-- Each unit in each of its states, its timer at 1 and at 2 where it counts. -/
theorem witness_TickMovesEachTimerOnce :
    (∀ st ∈ [PollState.sleeping, .idle, .transmitting, .cancelled, .awaitingResponse], (pollIn st).poll.state = st) ∧
      (∀ st ∈ [ScState.backoff, .idle, .lockWait, .transmit, .await],
        ({ scWaits.sc with state := st, timer := 2 } : SetConfirm).state = st) ∧
      (∀ st ∈ [ScanState.retrySleep, .interDelay, .idle, .lockWait, .transmit, .await],
        ({ scanWaits.scan with state := st, timer := 2 } : Scan).state = st) ∧
      rxOpen scWaits = true ∧ rxOpen quiet = false ∧
      quiet.slaves[0]? = some Slave.reset ∧ slvTimed Slave.reset = false ∧
      (listener .dispatching .delay []).state = .dispatching ∧ (listener .dispatching .delay []).phase = .delay ∧
      (paused 2).state = .paused ∧ (paused 2).timer ≠ 1 := by decide

theorem witness_MasterFaultEndsTheTransaction :
    quiet.lock = .free ∧ pollWaits.lock = .held .poll ∧ scWaits.lock = .held .sc ∧ scanWaits.lock = .held .scan := by
  decide

/-- SC and SCAN wait for the free lock; or the lock is taken. -/
theorem witness_GrantsBeginTransactions :
    quiet.lock = .free ∧ ({ scWaits.sc with state := .lockWait } : SetConfirm).state = .lockWait ∧
      ({ scanWaits.scan with state := .lockWait } : Scan).state = .lockWait ∧ scWaits.lock ≠ .free ∧
      quiet.sc.state ≠ .lockWait ∧ quiet.scan.state ≠ .lockWait ∧ quiet.poll.state ≠ .idle ∧ quiet.idSet = 0 := by decide

/-- POLL waits for the free lock with the set {2, 5, 9}. -/
def pollReady : State := { pollIn .idle with idSet := 0x112 }

theorem witness_SelectionPicksTheIdAtTheCursor :
    pollReady.lock = .free ∧ pollReady.poll.state = .idle ∧ pollReady.idSet ≠ 0 := by decide

theorem witness_EmptySetSkipsTheCycle :
    (pollIn .idle).poll.state = .idle ∧ (pollIn .idle).idSet = 0 ∧ quiet.poll.state ≠ .idle := by decide

theorem witness_IdSetMembersAscend : 2 < setSize 0x112 := by decide

theorem witness_RoundRobinIsFair : pollReady.idSet ≠ 0 := by decide

theorem witness_InternalStepsTakeEnabledEvents :
    quiet.inputs = [] ∧ enabledInternal quiet = [] ∧ pollReady.inputs = [] ∧ enabledInternal pollReady ≠ [] := by decide

/-! ### Fair runs -/

/-- With one internal event enabled and no input, that event happens. -/
theorem step_single {s : State} {e : Input} (hi : s.inputs = []) (he : enabledInternal s = [e]) :
    step s = handle e s := by
  simp [step, stepEvent, internalStep, internalChoice, hi, he, Nat.mod_one]

/-- A run in which the waiting unit `u` is granted the lock, its transaction ends with a transport fault, and nothing
is enabled or happens from then on. -/
def shortRun (u : MasterUnit) (s : State) (hg : step s = .next (grant u s))
    (hf : step ((grant u s).arrive [.mXfault] []) = .next (masterFault (grant u s)))
    (hq : step (masterFault (grant u s)) = .next (masterFault (grant u s))) : Run where
  state n := if n = 0 then s else if n = 1 then grant u s else masterFault (grant u s)
  events n := if n = 1 then [.mXfault] else []
  delays _ := []
  steps n := by
    match n with
    | 0 => simpa [State.arrive] using hg
    | 1 => simpa using hf
    | n + 2 => simpa [State.arrive] using hq

theorem shortRun_fair (u : MasterUnit) (s : State) (hg : step s = .next (grant u s))
    (hf : step ((grant u s).arrive [.mXfault] []) = .next (masterFault (grant u s)))
    (hq : step (masterFault (grant u s)) = .next (masterFault (grant u s)))
    (he : enabledInternal (masterFault (grant u s)) = []) (hl : (masterFault (grant u s)).lock = .free) :
    let r := shortRun u s hg hf hq
    r.WeaklyFair ∧ r.ArbiterFair ∧ (∀ m, ∃ n, m ≤ n ∧ (r.state n).lock = .free) ∧ r.state 0 = s := by
  have late : ∀ n, 2 ≤ n → (shortRun u s hg hf hq).state n = masterFault (grant u s) := by
    intro n hn
    simp only [shortRun]
    rw [if_neg (by omega), if_neg (by omega)]
  refine ⟨fun e k h => ?_, fun e k h => ?_, fun m => ⟨m + 2, by omega, by rw [late _ (by omega), hl]⟩, rfl⟩
  · have := h (k + 2) (by omega)
    rw [late _ (by omega), he] at this
    cases this
  · obtain ⟨n, hn, this⟩ := h 2
    rw [late n hn, he] at this
    cases this

/-- SC waits for the free lock with one attempt; SCAN with one id. -/
def scReady : State := { scWaits with lock := .free, sc := { scWaits.sc with state := .lockWait } }
def scanReady : State :=
  { scanWaits with lock := .free, scan := { scanWaits.scan with state := .lockWait, cur := 3 } }

/-- A run for each unit that waits, fair in both senses, in which the lock is free again and again. -/
theorem witness_WaitingUnitsAreGranted :
    (∃ r : Run, r.WeaklyFair ∧ r.ArbiterFair ∧ (∀ m, ∃ n, m ≤ n ∧ (r.state n).lock = .free) ∧ r.state 0 = scReady) ∧
      (∃ r : Run, r.WeaklyFair ∧ r.ArbiterFair ∧ (∀ m, ∃ n, m ≤ n ∧ (r.state n).lock = .free) ∧
        r.state 0 = scanReady) ∧
      (∃ r : Run, r.WeaklyFair ∧ r.ArbiterFair ∧ (∀ m, ∃ n, m ≤ n ∧ (r.state n).lock = .free) ∧
        r.state 0 = pollReady) ∧
      scReady.sc.state = .lockWait ∧ scanReady.scan.state = .lockWait ∧ pollReady.poll.state = .idle ∧
      pollReady.params.pollDelay ≠ 0 := by
  refine ⟨⟨_, shortRun_fair .sc scReady ?_ rfl rfl rfl rfl⟩, ⟨_, shortRun_fair .scan scanReady ?_ rfl rfl rfl rfl⟩,
    ⟨_, shortRun_fair .poll pollReady ?_ rfl rfl rfl rfl⟩, by decide⟩
  · exact (step_single (s := scReady) (e := .grant .sc) rfl (by decide)).trans rfl
  · exact (step_single (s := scanReady) (e := .grant .scan) rfl (by decide)).trans rfl
  · exact (step_single (s := pollReady) (e := .grant .poll) rfl (by decide)).trans rfl

/-- A command, the last byte of a request, the last byte of a response. -/
theorem witness_StepRunsTheDecodedInstruction :
    (reads [10] = some (.pollStart, 0) ∧ Instr.pollStart.isHostOp = true) ∧
      ((withUnit (listener .collecting .delay [0x49, 0x53, 2, 5, 0, 0])).slaves[0]? =
          some (listener .collecting .delay [0x49, 0x53, 2, 5, 0, 0]) ∧
        ([0x49, 0x53, 2, 5, 0, 0] : List Byte).length = 6 ∧
        reads ([0x49, 0x53, 2, 5, 0, 0] ++ [0xA3]) = some (.reqRead 2 0 0 0xA3, 0)) ∧
      (rxOpen scWaits = true ∧
        reads ([0x44, 0x54, 3, 1, 0x05, 0xDC] ++ [0x7D]) = some (.rspAck 3 1500 0x7D, 0)) := by decide

/-- A byte where there is room, a byte for a stopped listener, and an event that is no byte where there is no room. -/
theorem witness_NoTransportEventStopsTheBlock :
    (isTransportEvent (.sRx 0 0x49) = true ∧ portOf (.sRx 0 0x49) = some 0 ∧
      (buffered .seeking []).slaves[0]? = some (listener .seeking .delay []) ∧
      accFull testParams (listener .seeking .delay []) = false ∧
      quiet.slaves[0]? = some Slave.reset ∧ Slave.reset.state = .stopped ∧
      isTransportEvent (.sXfault 0) = true ∧ portOf (.sXfault 0) = some 0 ∧
      fullState.slaves[0]? = some (listener .paused .delay (List.replicate 10 0)) ∧
      accFull fullState.params (listener .paused .delay (List.replicate 10 0)) = true) ∧
      ∀ b, Input.sXfault 0 ≠ .sRx 0 b := ⟨by decide, by simp⟩

theorem witness_ResetValues :
    (1 ≤ 1 ∧ 1 ≤ 64) ∧ (1 ≤ 64 ∧ 64 ≤ 64) ∧ Slave.reset ∈ (State.resetWith 1).slaves := by decide

theorem witness_ResetIsQuiescent :
    isTransportEvent (.sRx 0 0x49) = true ∧ portOf (.sRx 0 0x49) = some 0 ∧ 0 < 1 ∧
      Slave.reset ∈ (State.resetWith 1).slaves := by decide

/-- Words on both sides of each condition. -/
theorem witness_MasksAndConditionsSelectTheFrames :
    0x495302050000A3 < 2 ^ 56 ∧ 0x495302050000A3 &&& 0xFFFF00FF000000 = 0x49530005000000 ∧
      0x4454020505DC011091 < 2 ^ 72 ∧ 0x4454020505DC011091 &&& 0xFFFF00FF0000000000 = 0x445400050000000000 ∧
      (0xE1 : Byte).toNat = (0x49 + 0x53 + 64 + 0x05 + 0 + 0) % 256 ∧ (6 : Byte) ≠ 0x01 ∧ (6 : Byte) ≠ 0x05 := by decide

theorem witness_DecodeAndEncodeAgree :
    reads [0x44, 0x54, 2, 1, 0x05, 0xDC, 0x7C, 9] = some (.rspAck 2 1500 0x7C, 1) ∧
      (Instr.rspAck 2 1500 0x7C).isHostOp = false := by decide

/-! ### Invariants, in a state with a transaction in flight -/

/-- SC waits, with the byte 0x44 received. -/
def scReceives : State := { scWaits with mAcc := [0x44], sc := { scWaits.sc with timer := 2 }, inputs := [.tick] }

theorem masterInv_scReceives : MasterInv scReceives := by
  refine ⟨?_, ?_, ?_, .inr (.inl rfl), ?_, ?_⟩
  · intro u
    cases u <;> decide
  · intro h
    exact absurd rfl h
  · intro _
    decide
  · intro h
    exact absurd h (by decide)
  · decide

theorem witness_StepKeepsMasterInvariants :
    MasterInv scReceives ∧ after (step scReceives) (·.sc.timer) = some 1 := ⟨masterInv_scReceives, by decide⟩

theorem timersInv_scReceives : TimersInv scReceives := by
  refine ⟨by decide, by decide, by decide, by decide⟩

theorem witness_StepKeepsTimersRunning :
    TimersInv scReceives ∧ after (step scReceives) (·.sc.timer) = some 1 := ⟨timersInv_scReceives, by decide⟩

/-- A collecting listener and its next byte. -/
def collects : State :=
  { withUnit (listener .collecting .delay [0x49, 0x53, 2, 5, 0]) with inputs := [.sRx 0 0] }

theorem slavesInv_collects : SlavesInv collects := by
  intro u hu
  simp only [collects, withUnit, List.mem_singleton] at hu
  subst hu
  constructor <;> simp [listener, Slave.reset, reqLen]

theorem witness_StepKeepsSlavesInOrder :
    SlavesInv collects ∧ after (step collects) (fun t => t.slaves.map (·.acc)) = some [[0x49, 0x53, 2, 5, 0, 0]] :=
  ⟨slavesInv_collects, by decide⟩

theorem rangesInv_scReceives : RangesInv scReceives := by
  refine ⟨by decide, by decide, by decide, by decide, by decide, by decide⟩

theorem witness_StepKeepsRegisterRanges :
    MasterInv scReceives ∧ RangesInv scReceives ∧ after (step scReceives) (·.sc.timer) = some 1 :=
  ⟨masterInv_scReceives, rangesInv_scReceives, by decide⟩

theorem witness_StepsOnlyExtendTheTraces : after (step collects) (·.evOut) = some [] := by decide

/-- LOAD_RPM(64, 2000), SET_MAXRPM(5000), SET_ALARM, LOAD_IDSET, QUEUE_SET, a Set request's last byte and a selection,
each as the next event: each register changes. -/
theorem witness_ConfigurationHasItsOwnWriters :
    after (onEvent (.host [17, 64, 0x07, 0xD0]) quiet) (fun t => readMap t 64 != readMap quiet 64) = some true ∧
      after (onEvent (.host [14, 0x13, 0x88]) quiet) (fun t => t.maxRpm != quiet.maxRpm) = some true ∧
      after (onEvent (.host [16, 0x0F, 0xF0]) quiet) (fun t => t.sAlarm != quiet.sAlarm) = some true ∧
      after (onEvent (.host [15, 0, 0, 0, 0, 0, 0, 0x01, 0x12]) quiet) (fun t => t.idSet != quiet.idSet) = some true ∧
      after (onEvent (.host [13, 5, 0x03, 0x84]) quiet) (fun t => t.pend != quiet.pend) = some true ∧
      after (onEvent (.sRx 0 0x85) { buffered .collecting [0x49, 0x53, 2, 6, 0x05, 0xDC] with draws := [0] })
        (fun t => readMap t 2 != readMap quiet 2) = some true ∧
      after (onEvent (.grant .poll) pollReady) (fun t => t.poll.cursor != pollReady.poll.cursor) = some true := by
  decide

theorem witness_SetAttemptsStayWithinTheBudget :
    MasterInv scReceives ∧ RangesInv scReceives ∧ scReceives.sc.state ≠ .idle ∧ attemptBudget scReceives ≤ 256 ∧
      after (step scReceives) (·.sc.timer) = some 1 :=
  ⟨masterInv_scReceives, rangesInv_scReceives, by decide, by decide, by decide⟩

end Sys2Proof.Tests
end

section
/-! SUPPORT. What only grows (R10, R39): the traces, along every operation, host operation and event. -/

namespace Sys2Proof.Machine

/-! ## Extending the traces -/

theorem Extends.refl (s : State) : Extends s s where
  params := rfl
  evOut := List.prefix_refl _
  retOut := List.prefix_refl _
  mTxOut := List.prefix_refl _
  ports := rfl
  sTxOut := by
    intro p u v hu hv
    cases hu.symm.trans hv
    exact List.prefix_refl _

theorem Extends.trans {s t r : State} (h : Extends s t) (k : Extends t r) : Extends s r where
  params := k.params.trans h.params
  evOut := h.evOut.trans k.evOut
  retOut := h.retOut.trans k.retOut
  mTxOut := h.mTxOut.trans k.mTxOut
  ports := k.ports.trans h.ports
  sTxOut := by
    intro p u v hu hv
    have hp : p < t.slaves.length := h.ports ▸ (List.getElem?_eq_some_iff.mp hu).1
    have hm := List.getElem?_eq_getElem hp
    exact (h.sTxOut p u _ hu hm).trans (k.sTxOut p _ v hm hv)

/-- Where the slave units are the same, only the shared traces have to be looked at. -/
theorem Extends.of_slaves_eq {s t : State} (hparams : t.params = s.params) (hslaves : t.slaves = s.slaves)
    (hev : s.evOut <+: t.evOut) (hret : s.retOut <+: t.retOut) (htx : s.mTxOut <+: t.mTxOut) : Extends s t where
  params := hparams
  evOut := hev
  retOut := hret
  mTxOut := htx
  ports := by rw [hslaves]
  sTxOut := by
    rw [hslaves]
    exact (Extends.refl s).sTxOut

/-- A write of registers that are no trace, no parameter and no slave unit. -/
theorem Extends.of_outputs_eq {s t : State} (hparams : t.params = s.params) (hslaves : t.slaves = s.slaves)
    (hev : t.evOut = s.evOut) (hret : t.retOut = s.retOut) (htx : t.mTxOut = s.mTxOut) : Extends s t :=
  .of_slaves_eq hparams hslaves (hev ▸ List.prefix_refl _) (hret ▸ List.prefix_refl _) (htx ▸ List.prefix_refl _)

theorem emit_extends (e : OutEvent) (s : State) : Extends s (emit e s) :=
  .of_slaves_eq rfl rfl (List.prefix_append _ _) (List.prefix_refl _) (List.prefix_refl _)

theorem returnToHost_extends (r : HostResult) (s : State) : Extends s (returnToHost r s) :=
  .of_slaves_eq rfl rfl (List.prefix_refl _) (List.prefix_append _ _) (List.prefix_refl _)

theorem MasterFrame.extends {s t : State} (h : MasterFrame s t) : Extends s t :=
  .of_slaves_eq h.params h.slaves h.evOut (h.retOut ▸ List.prefix_refl _) h.mTxOut

/-- An operation of one slave port extends the traces if it extends what that port transmitted. -/
theorem SlaveFrame.extends {p : Nat} {s t : State} {u v : Slave} (h : SlaveFrame p s t) (hu : s.slaves[p]? = some u)
    (hv : t.slaves[p]? = some v) (htx : u.txOut <+: v.txOut) : Extends s t where
  params := h.params
  evOut := h.evOut
  retOut := h.retOut ▸ List.prefix_refl _
  mTxOut := h.mTxOut ▸ List.prefix_refl _
  ports := h.ports
  sTxOut := by
    intro q a b ha hb
    by_cases hq : q = p
    · subst hq
      cases hu.symm.trans ha
      cases hv.symm.trans hb
      exact htx
    · rw [h.others q hq] at hb
      exact (Extends.refl s).sTxOut q a b ha hb

theorem PortMoved.extends {p : Nat} {s t : State} (h : PortMoved p s t) : Extends s t := by
  obtain ⟨hframe, u, v, hu, hv, hmoved⟩ := h
  exact hframe.extends hu hv hmoved.txOut

theorem setSlave_extends {p : Nat} {u v : Slave} {s : State} (hu : s.slaves[p]? = some u)
    (htx : u.txOut <+: v.txOut) : Extends s (setSlave p v s) :=
  (setSlave_frame p v s).extends hu (getElem?_setSlave_self v hu) htx

theorem stopSlave_extends {p : Nat} {u : Slave} {s : State} (hu : s.slaves[p]? = some u) :
    Extends s (stopSlave p u s) := by
  unfold stopSlave
  refine Extends.trans ?_ (emit_extends _ _)
  exact setSlave_extends hu (List.prefix_refl _)

theorem Ticked.extends {parts : List Nat} {s t : State} (h : Ticked parts s t) : Extends s t where
  params := h.params
  evOut := h.evOut
  retOut := h.retOut ▸ List.prefix_refl _
  mTxOut := h.mTxOut
  ports := h.ports
  sTxOut := by
    intro p u v hu hv
    by_cases hp : p + 1 ∈ parts
    · obtain ⟨w, hw, hticked⟩ := h.slaves p u hp hu
      cases hw.symm.trans hv
      exact hticked.moved.txOut
    · rw [h.others p hp] at hv
      exact (Extends.refl s).sTxOut p u v hu hv

/-! ## The host operations -/

section
variable {s t : State}

theorem execDecodeResponse_extends {buffer : List Byte} {n : Nat} (h : execDecodeResponse buffer n s = .next t) :
    Extends s t := by
  unfold execDecodeResponse at h
  split at h
  · cases h
    exact returnToHost_extends _ s
  · cases h
    exact (returnToHost_extends _ s).trans (.of_outputs_eq rfl rfl rfl rfl rfl)

theorem execScan_extends {start stop retries : Byte} {interDelay readTimeout : Word16}
    (h : execScan start stop retries interDelay readTimeout s = .next t) : Extends s t := by
  unfold execScan at h
  dsimp only at h
  split at h
  · split at h
    · cases h
      refine Extends.trans ?_ (finishScan_frame _).extends
      exact .of_outputs_eq rfl rfl rfl rfl rfl
    · cases h
      exact .of_outputs_eq rfl rfl rfl rfl rfl
  · cases h

theorem execTrySet_extends {id : Byte} {rpm : Word16} {retries : Byte} {timeoutMs backoffMs : Word16}
    (h : execTrySet id rpm retries timeoutMs backoffMs s = .next t) : Extends s t := by
  unfold execTrySet at h
  split at h
  · cases h
    exact .of_outputs_eq rfl rfl rfl rfl rfl
  · cases h

theorem execPollStart_extends (h : execPollStart s = .next t) : Extends s t := by
  unfold execPollStart at h
  split at h
  · cases h
    exact .of_outputs_eq rfl rfl rfl rfl rfl
  · cases h

theorem execPollCancel_extends (h : execPollCancel s = .next t) : Extends s t := by
  have stopped : ∀ poll : Poll, Extends s (emit .pollStopped { s with poll := poll }) := fun poll =>
    Extends.trans (t := { s with poll := poll }) (.of_outputs_eq rfl rfl rfl rfl rfl) (emit_extends _ _)
  unfold execPollCancel at h
  cases hst : s.poll.state <;> rw [hst] at h <;> cases h
  case cancelled | parsing => exact .refl s
  case idle | sleeping => exact stopped _
  case transmitting | awaitingResponse => exact .of_outputs_eq rfl rfl rfl rfl rfl

theorem execEstimate_extends {baud slaveCount frameBytes : Nat} {q : Fraction}
    (h : execEstimate baud slaveCount frameBytes q s = .next t) : Extends s t := by
  unfold execEstimate at h
  split at h
  · cases h
  · cases h
    exact returnToHost_extends _ s

theorem execLoadRpm_extends {id : Byte} {rpm : Word16} (h : execLoadRpm id rpm s = .next t) : Extends s t := by
  unfold execLoadRpm at h
  split at h
  · cases h
    exact .of_outputs_eq (by simp) (by simp) (by simp) (by simp) (by simp)
  · cases h

theorem execReadRpm_extends {id : Byte} (h : execReadRpm id s = .next t) : Extends s t := by
  unfold execReadRpm at h
  split at h
  · cases h
    exact returnToHost_extends _ s
  · cases h

theorem execSlaveStart_extends {port : Nat} (h : execSlaveStart port s = .next t) : Extends s t := by
  obtain ⟨u, hu, h⟩ := withSlave_eq_next.mp h
  split at h
  · cases h
    exact setSlave_extends hu (List.prefix_refl _)
  · cases h

theorem execSlaveStop_extends {port : Nat} (h : execSlaveStop port s = .next t) : Extends s t := by
  obtain ⟨u, hu, h⟩ := withSlave_eq_next.mp h
  cases hst : u.state <;> rw [hst] at h
  case stopped | validating =>
    cases h
    exact .refl s
  case seeking | collecting | paused =>
    cases h
    exact stopSlave_extends hu
  case dispatching =>
    cases hph : u.phase <;> rw [hph] at h <;> cases h
    case delay => exact stopSlave_extends hu
    case send => exact setSlave_extends hu (List.prefix_refl _)

/-- No host operation takes back what was published, transmitted or returned. -/
theorem exec_hostOp_extends {i : Instr} (hi : i.isHostOp = true) (h : exec i s = .next t) : Extends s t := by
  cases i
  case reqRead | reqSet | rspAck | rspRead => cases hi
  case encodeRequest | encodeTargetAck | encodeReadRsp | alarmDecode | alarmDescribe | alarmHasFault
      | alarmIsRemote =>
    cases h
    exact returnToHost_extends _ s
  case queueSet | setMaxRpm | loadIdSet | setAlarm =>
    cases h
    exact .of_outputs_eq rfl rfl rfl rfl rfl
  case decodeResponse => exact execDecodeResponse_extends h
  case scan => exact execScan_extends h
  case trySet => exact execTrySet_extends h
  case pollStart => exact execPollStart_extends h
  case pollCancel => exact execPollCancel_extends h
  case estimate => exact execEstimate_extends h
  case loadRpm => exact execLoadRpm_extends h
  case readRpm => exact execReadRpm_extends h
  case slaveStart => exact execSlaveStart_extends h
  case slaveStop => exact execSlaveStop_extends h

end

/-! ## Events and steps -/

theorem Happened.extends {e : Input} {s t : State} (h : Happened e s t) : Extends s t := by
  cases h with
  | host hd hi h => exact exec_hostOp_extends hi h
  | tick h => exact h.extends
  | none => exact .refl s
  | received acc ho ha => exact .of_outputs_eq rfl rfl rfl rfl rfl
  | judged v ho =>
    refine Extends.trans ?_ (deliver_frame v _).extends
    exact .of_outputs_eq rfl rfl rfl rfl rfl
  | sent => exact (masterTxByte_frame s).extends
  | fault => exact (masterFault_frame s).extends
  | granted h => exact (grant_frame _ s).extends
  | skipped h => exact (enterSleep_frame _ s).extends
  | port h => exact h.extends

/-- Settles O58: by what a step can do, the event taken at the state that has counted it. -/
theorem stepsOnlyExtendTheTraces : Obligations.StepsOnlyExtendTheTraces := by
  intro s t h
  rcases step_cases h with ⟨-, -, rfl⟩ | ⟨e, rest, n, -, hH⟩
  · exact .refl t
  · refine Extends.trans ?_ hH.extends
    exact .of_outputs_eq rfl rfl rfl rfl rfl

end Sys2Proof.Machine
end

section
/-! SUPPORT. The step as exec of a decoded instruction (R8, R9): a host command, and the frame a byte completes. -/

namespace Sys2Proof.Machine

/-! ## The decoder on bytes that begin with a magic -/

theorem decode_request_magic (rest : List Byte) :
    decode (reqMagic0 :: reqMagic1 :: rest) = decodeRequestFrame (reqMagic0 :: reqMagic1 :: rest) := rfl

theorem decode_response_magic (rest : List Byte) :
    decode (rspMagic0 :: rspMagic1 :: rest) = decodeResponseFrame (rspMagic0 :: rspMagic1 :: rest) := rfl

/-- A response that decodes with no byte left has exactly the length its Command byte calls for (R101). -/
theorem responseLength_of_decode {w : List Byte} {i : Instr} (h : decodeResponseFrame w = .ok (i, [])) :
    4 ≤ w.length ∧ responseLength (byteAt w 3) = some w.length := by
  unfold decodeResponseFrame at h
  split at h
  · rename_i b m1 id cmd body
    split at h
    · cases h
    · split at h
      · rename_i hcmd
        subst hcmd
        split at h
        · cases h
          exact ⟨by simp, rfl⟩
        · cases h
      · split at h
        · rename_i hcmd
          subst hcmd
          split at h
          · cases h
            exact ⟨by simp, rfl⟩
          · cases h
        · cases h
  · cases h

/-- Two bytes at the front and what follows them. -/
theorem eq_cons_cons_of_take {w : List Byte} {a b : Byte} (h : w.take 2 = [a, b]) : ∃ rest, w = a :: b :: rest :=
  ⟨w.drop 2, by rw [← List.take_append_drop 2 w, h]; simp⟩

/-! ## One event that completes an instruction -/

theorem step_of_inputs {s : State} {e : Input} {rest : List Input} (h : s.inputs = e :: rest) :
    step s = handle e { s with inputs := rest } := by
  simp only [step, stepEvent, h]

theorem hostCommand_of_decode {c left : List Byte} {i : Instr} (s : State) (hd : decode c = .ok (i, left))
    (hi : i.isHostOp = true) : hostCommand c s = exec i s := by
  simp [hostCommand, hd, hi]

/-- In an open window, the byte that completes a frame makes the master run it with the buffer emptied (R164). -/
theorem masterRx_completes {s : State} {b : Byte} {i : Instr} (ho : rxOpen s = true)
    (hm : (s.mAcc ++ [b]).take 2 = [rspMagic0, rspMagic1]) (hd : decode (s.mAcc ++ [b]) = .ok (i, [])) :
    masterRx b s = exec i { s with mAcc := [] } := by
  obtain ⟨tail, hw⟩ := eq_cons_cons_of_take hm
  rw [hw, decode_response_magic] at hd
  obtain ⟨h4, hlen⟩ := responseLength_of_decode hd
  simp only [masterRx, if_pos ho, hw, resync_magic, if_neg (Nat.not_lt.mpr h4), hlen, Nat.lt_irrefl, if_false,
    List.take_length, runResponseWindow, hd]

/-- A unit written back as it stands changes nothing. -/
theorem setSlave_self {p : Nat} {s : State} {u : Slave} (h : s.slaves[p]? = some u) : setSlave p u s = s := by
  obtain ⟨hp, rfl⟩ := List.getElem?_eq_some_iff.mp h
  simp [setSlave]

/-- A seeking unit with nothing buffered stays as it is (R283). -/
theorem assembleFuel_empty {p : Nat} {s : State} {u : Slave} (fuel : Nat) (hu : s.slaves[p]? = some u)
    (hst : u.state = .seeking) (hacc : u.acc = []) : assembleFuel p fuel s = .next s := by
  have hseek : seek u = u := by
    cases u
    simp_all [seek]
  cases fuel with
  | zero => rfl
  | succ fuel => simp [assembleFuel, withSlave_of_some hu, hseek, hst, setSlave_self hu]

/-- A collecting unit that holds exactly one window makes of it what running the window makes (R285): no byte is left
to go on with. -/
theorem assemble_window {p : Nat} {s : State} {u : Slave} (hu : s.slaves[p]? = some u) (hst : u.state = .collecting)
    (hlen : u.acc.length = reqLen) :
    assemble p s = runRequestWindow p u.acc (setSlave p { u with state := .validating, acc := [] } s) := by
  have hseek : seek u = u := by simp [seek, hst]
  have htake : u.acc.take reqLen = u.acc := List.take_of_length_le hlen.le
  have hdrop : u.acc.drop reqLen = [] := List.drop_of_length_le hlen.le
  have hu1 := getElem?_setSlave_self { u with state := .validating, acc := [] } hu
  obtain ⟨f, hrun⟩ := runRequestWindow_next u.acc hu1
  obtain ⟨v, hv, hacc, -⟩ := validateAndDispatch_unit (p := p)
    (s := { setSlave p { u with state := .validating, acc := [] } s with activePort := p })
    { u with state := .validating, acc := [] } f hu1
  rw [assemble, withSlave_of_some hu, assembleFuel, withSlave_of_some hu]
  simp only [hseek, htake, hdrop, hst, hlen, le_refl, and_self, if_true]
  rw [hrun, andThen_next, withSlave_of_some hv]
  split
  · rename_i hseeking
    exact assembleFuel_empty _ hv hseeking hacc
  · rfl

/-- At a collecting port, the byte that completes seven makes the unit run the frame they are (R285). -/
theorem slaveRx_completes {p : Nat} {s : State} {u : Slave} {b : Byte} {i : Instr} (hu : s.slaves[p]? = some u)
    (hst : u.state = .collecting) (hlen : u.acc.length = 6) (hm : u.acc.take 2 = [reqMagic0, reqMagic1])
    (hd : decode (u.acc ++ [b]) = .ok (i, [])) :
    slaveRx p b s =
      exec i { setSlave p { u with state := .validating, acc := [] } s with activePort := p } := by
  have hroom : accFull s.params u = false := by simp [accFull, hlen]
  have hu1 := getElem?_setSlave_self { u with acc := u.acc ++ [b] } hu
  obtain ⟨tail, hw⟩ := eq_cons_cons_of_take hm
  have hframe : decodeRequestFrame (u.acc ++ [b]) = .ok (i, []) := by
    rw [hw] at hd ⊢
    exact (decode_request_magic (tail ++ [b])).symm.trans hd
  have hassemble := assemble_window hu1 hst (by simp [hlen])
  rw [setSlave_setSlave] at hassemble
  have hrx : slaveRx p b s = assemble p (setSlave p { u with acc := u.acc ++ [b] } s) := by
    simp [slaveRx, withSlave_of_some hu, hst, hroom]
  rw [hrx, hassemble, runRequestWindow, hframe]

/-- Settles O46: the host port, a slave port's receiver and the master's receiver, each at the step that takes its
event. -/
theorem stepRunsTheDecodedInstruction : Obligations.StepRunsTheDecodedInstruction := by
  refine ⟨?_, ?_, ?_⟩
  · intro s command rest i left hin hd hi
    rw [step_of_inputs hin]
    exact hostCommand_of_decode _ hd hi
  · intro s p u b rest i hin hu hst hlen hm hd
    rw [step_of_inputs hin]
    exact slaveRx_completes (s := { s with inputs := rest }) hu hst hlen hm hd
  · intro s b rest i hin ho hm hd
    rw [step_of_inputs hin]
    exact masterRx_completes (s := { s with inputs := rest }) ho hm hd

end Sys2Proof.Machine
end

section
/-! SUPPORT. Id sets and the state after reset (R22, R44). -/

namespace Sys2Proof.Machine

/-- A member is an id 1..64 whose bit is set (R22). -/
theorem mem_members {set : IdMask} {id : Nat} :
    id ∈ members set ↔ 1 ≤ id ∧ id ≤ 64 ∧ set.getLsbD (id - 1) = true := by
  simp only [members, List.mem_map, List.mem_filter, List.mem_range]
  constructor
  · rintro ⟨i, ⟨hi, hset⟩, rfl⟩
    exact ⟨by omega, by omega, hset⟩
  · rintro ⟨h1, h64, hset⟩
    exact ⟨id - 1, ⟨by omega, hset⟩, by omega⟩

/-- The members are listed in ascending order, each once (R22). -/
theorem members_ascend (set : IdMask) : (members set).Pairwise (· < ·) := by
  rw [members, List.pairwise_map]
  exact (List.pairwise_lt_range.filter _).imp fun h => Nat.succ_lt_succ h

/-- Below the size, `nth` reads the list of the members (R22). -/
theorem members_getElem? {set : IdMask} {k : Nat} (h : k < setSize set) : (members set)[k]? = some (nth set k) := by
  rw [nth, List.getD_eq_getElem?_getD, List.getElem?_eq_getElem h, Option.getD_some]

/-- Settles O42. -/
theorem idSetMembersAscend : Obligations.IdSetMembersAscend := fun set =>
  ⟨fun _ => mem_members, members_ascend set, rfl, fun _ => members_getElem?⟩

/-- After reset the map holds its parameter's values (R44). -/
theorem readMap_resetWith (ports : Nat) {i : Nat} (h1 : 1 ≤ i) (h64 : i ≤ 64) :
    readMap (State.resetWith ports) i = Config.rpmReset i := by
  have hi : i - 1 < 64 := by omega
  simp [readMap, State.resetWith, rpmMapReset, List.getD, hi, Nat.sub_add_cancel h1]

/-- After reset every slave unit is the reset one (R44). -/
theorem eq_reset_of_mem_slaves {ports : Nat} {u : Slave} (h : u ∈ (State.resetWith ports).slaves) :
    u = Slave.reset := List.eq_of_mem_replicate h

/-- Settles O48: the map and the slave units by their own lemmas, every other register by its value. -/
theorem resetValues : Obligations.ResetValues := by
  refine ⟨rfl, fun ports => ?_⟩
  refine ⟨fun i => readMap_resetWith ports, rfl, rfl, rfl, rfl, rfl, rfl, rfl, rfl, rfl, rfl, rfl, rfl, rfl, rfl, rfl,
    rfl, rfl, List.length_replicate, fun u hu => ?_, rfl, rfl⟩
  rw [eq_reset_of_mem_slaves hu]
  exact ⟨rfl, rfl, rfl, rfl, rfl, rfl⟩

end Sys2Proof.Machine
end

section
/-! SUPPORT. The configuration (R20 to R24, R32): which operations leave PEND, the cursor and IDSET alone, and what one
event does to the map and the configuration registers. -/

namespace Sys2Proof.Machine

/-! ## The master's operations but the selection -/

/-- A master operation that is no selection: PEND and the cursor are the same, and IDSET is, or a scan has ended and
published the new set. -/
structure SettingsFrame (s t : State) : Prop extends MasterFrame s t where
  pend : t.pend = s.pend
  cursor : t.poll.cursor = s.poll.cursor
  idSet : t.idSet = s.idSet ∨ .scanDone t.idSet ∈ t.evOut.drop s.evOut.length

theorem SettingsFrame.refl (s : State) : SettingsFrame s s := ⟨.refl s, rfl, rfl, .inl rfl⟩

/-- An event published in the second of two stretches of a run is among those of both. -/
theorem mem_drop_of_later {l m n : List OutEvent} (h : l <+: m) (k : m <+: n) {e : OutEvent}
    (he : e ∈ n.drop m.length) : e ∈ n.drop l.length := by
  obtain ⟨x, rfl⟩ := h
  obtain ⟨y, rfl⟩ := k
  rw [List.drop_left] at he
  rw [List.append_assoc, List.drop_left]
  exact List.mem_append_right x he

/-- IDSET kept or published over two stretches of a run. -/
theorem idSet_published_trans {a b c : IdMask} {l m n : List OutEvent} (h : l <+: m) (k : m <+: n)
    (hb : b = a ∨ .scanDone b ∈ m.drop l.length) (hc : c = b ∨ .scanDone c ∈ n.drop m.length) :
    c = a ∨ .scanDone c ∈ n.drop l.length := by
  rcases hc with rfl | hc
  · exact hb.imp_right (mem_drop_of_prefix h k)
  · exact .inr (mem_drop_of_later h k hc)

theorem SettingsFrame.trans {s t r : State} (h : SettingsFrame s t) (k : SettingsFrame t r) : SettingsFrame s r where
  toMasterFrame := h.toMasterFrame.trans k.toMasterFrame
  pend := k.pend.trans h.pend
  cursor := k.cursor.trans h.cursor
  idSet := idSet_published_trans h.evOut k.evOut h.idSet k.idSet

/-- A write of the master's registers other than PEND, IDSET and the cursor. -/
theorem SettingsFrame.of_registers (s : State) {lock : Lock} {q a : List Byte} {txn : Txn} {st : PollState}
    {cancel : Bool} {timer : Word16} {cur : BitVec 7} {sc : SetConfirm} {scan : Scan} :
    SettingsFrame s { s with
      lock := lock, mTxq := q, mAcc := a, txn := txn, sc := sc, scan := scan
      poll := { s.poll with state := st, cancelReq := cancel, timer := timer, curId := cur } } :=
  ⟨.of_registers s _ _ _ _ _ _ _ _ _, rfl, rfl, .inl rfl⟩

theorem emit_settings (e : OutEvent) (s : State) : SettingsFrame s (emit e s) :=
  ⟨emit_frame e s, rfl, rfl, .inl rfl⟩

theorem raise_settings (e : Exc) (s : State) : SettingsFrame s (raise e s) := emit_settings _ s

theorem endTxn_settings (u : MasterUnit) (r : List Byte) (t e : Bool) (s : State) :
    SettingsFrame s (endTxn u r t e s) :=
  ⟨endTxn_frame u r t e s, rfl, rfl, .inl rfl⟩

theorem dispatchResponse_settings (p : ParsedResponse) (s : State) : SettingsFrame s (dispatchResponse p s) := by
  refine ⟨dispatchResponse_frame p s, ?_, ?_, .inl ?_⟩ <;> cases p <;> simp [dispatchResponse]

theorem beginTxn_settings (u : MasterUnit) (f : List Byte) (s : State) : SettingsFrame s (beginTxn u f s) := by
  cases u <;> exact .of_registers s

theorem enterSleep_settings (d : Word16) (s : State) : SettingsFrame s (enterSleep d s) := by
  unfold enterSleep
  split
  · exact (SettingsFrame.of_registers s).trans (emit_settings _ _)
  · exact .of_registers s

/-- The end of a scan publishes the set it stores (R198). -/
theorem finishScan_settings (s : State) : SettingsFrame s (finishScan s) :=
  ⟨finishScan_frame s, rfl, rfl, .inr (by simp [finishScan])⟩

theorem leaveInterDelay_settings (s : State) : SettingsFrame s (leaveInterDelay s) :=
  .of_registers s

theorem nextId_settings (s : State) : SettingsFrame s (nextId s) := by
  unfold nextId
  split
  · exact finishScan_settings s
  · dsimp only
    split
    · exact (SettingsFrame.of_registers s).trans (leaveInterDelay_settings _)
    · exact .of_registers s

theorem scanAttemptFailed_settings (s : State) : SettingsFrame s (scanAttemptFailed s) := by
  unfold scanAttemptFailed
  dsimp only
  split
  · exact (SettingsFrame.of_registers s).trans (nextId_settings _)
  · split <;> exact .of_registers s

theorem scAttemptFailed_settings (s : State) : SettingsFrame s (scAttemptFailed s) := by
  unfold scAttemptFailed
  dsimp only
  split
  · exact ⟨by constructor <;> simp [MapFollows], rfl, rfl, .inl rfl⟩
  · split <;> exact .of_registers s

theorem pollVerdict_settings (v : Verdict) (s : State) : SettingsFrame s (pollVerdict v s) := by
  unfold pollVerdict
  dsimp only
  refine SettingsFrame.trans ?_ (enterSleep_settings _ _)
  refine SettingsFrame.trans (t := { s with poll := { s.poll with state := .parsing } }) (.of_registers s) ?_
  cases v with
  | ok p w => exact (dispatchResponse_settings _ _).trans (endTxn_settings _ _ _ _ _)
  | bad e w => exact (raise_settings _ _).trans (endTxn_settings _ _ _ _ _)

theorem scVerdict_settings (v : Verdict) (s : State) : SettingsFrame s (scVerdict v s) := by
  cases v with
  | bad e w => exact raise_settings _ _
  | ok p w =>
    unfold scVerdict
    dsimp only
    split
    · refine (dispatchResponse_settings p s).trans ((endTxn_settings .sc w false false _).trans ?_)
      exact (emit_settings _ _).trans (.of_registers _)
    · exact dispatchResponse_settings p s

theorem scanVerdict_settings (v : Verdict) (s : State) : SettingsFrame s (scanVerdict v s) := by
  cases v with
  | bad e w => exact raise_settings _ _
  | ok p w =>
    unfold scanVerdict
    dsimp only
    split
    · refine (dispatchResponse_settings p s).trans (SettingsFrame.trans ?_ (nextId_settings _))
      exact SettingsFrame.trans (.of_registers _) (endTxn_settings _ _ _ _ _)
    · exact dispatchResponse_settings p s

theorem deliver_settings (v : Verdict) (s : State) : SettingsFrame s (deliver v s) := by
  unfold deliver
  split
  · exact .refl s
  · exact pollVerdict_settings v s
  · exact scVerdict_settings v s
  · exact scanVerdict_settings v s

theorem deadlineTail_settings (u : MasterUnit) (s : State) : SettingsFrame s (deadlineTail u s) := by
  cases u
  case poll => exact (endTxn_settings _ _ _ _ _).trans (enterSleep_settings _ _)
  case sc => exact (endTxn_settings _ _ _ _ _).trans (scAttemptFailed_settings _)
  case scan => exact (endTxn_settings _ _ _ _ _).trans (scanAttemptFailed_settings _)

theorem deadline_settings (u : MasterUnit) (s : State) : SettingsFrame s (deadline u s) := by
  unfold deadline
  dsimp only
  refine SettingsFrame.trans ?_ (deadlineTail_settings _ _)
  split
  · exact raise_settings _ _
  · exact (raise_settings _ _).trans (raise_settings _ _)

theorem openWindow_settings (u : MasterUnit) (s : State) : SettingsFrame s (openWindow u s) := by
  unfold openWindow
  dsimp only
  have base : SettingsFrame s (enterAwait u { s with mAcc := [], txn := { s.txn with elapsed := 0 } }) := by
    cases u <;> exact .of_registers s
  split
  · exact base.trans (deadline_settings _ _)
  · exact base

theorem masterTxByte_settings (s : State) : SettingsFrame s (masterTxByte s) := by
  unfold masterTxByte
  split
  · exact .refl s
  · rename_i b rest hq
    have base : SettingsFrame s { s with mTxOut := s.mTxOut ++ [b], mTxq := rest } :=
      ⟨by constructor <;> simp [MapFollows], rfl, rfl, .inl rfl⟩
    dsimp only
    split
    · exact base.trans (openWindow_settings _ _)
    · exact base

theorem masterFault_settings (s : State) : SettingsFrame s (masterFault s) := by
  unfold masterFault
  split
  · exact .refl s
  · rename_i u hlock
    have base := (raise_settings (.transportFault .m) s).trans (endTxn_settings u [] false true _)
    cases u
    case poll => exact base.trans (enterSleep_settings _ _)
    case sc => exact base.trans (scAttemptFailed_settings _)
    case scan => exact base.trans (scanAttemptFailed_settings _)

theorem countElapsed_settings (s : State) : SettingsFrame s (countElapsed s) := by
  unfold countElapsed
  split
  · exact .of_registers s
  · exact .refl s

theorem pollTick_settings (s : State) : SettingsFrame s (pollTick s) := by
  unfold pollTick
  split
  · dsimp only
    split
    · exact (SettingsFrame.of_registers s).trans (deadline_settings _ _)
    · exact .of_registers s
  · exact .of_registers s
  all_goals exact .refl s

theorem scTick_settings (s : State) : SettingsFrame s (scTick s) := by
  unfold scTick
  split
  · dsimp only
    split
    · exact (SettingsFrame.of_registers s).trans (deadline_settings _ _)
    · exact .of_registers s
  · exact .of_registers s
  all_goals exact .refl s

theorem scanTick_settings (s : State) : SettingsFrame s (scanTick s) := by
  unfold scanTick
  split
  · dsimp only
    split
    · exact (SettingsFrame.of_registers s).trans (deadline_settings _ _)
    · exact .of_registers s
  · exact .of_registers s
  · unfold scanInterDelayTick
    dsimp only
    split
    · exact (SettingsFrame.of_registers s).trans (leaveInterDelay_settings _)
    · exact .of_registers s
  all_goals exact .refl s

theorem masterTick_settings (s : State) : SettingsFrame s (masterTick s) :=
  (((countElapsed_settings s).trans (pollTick_settings _)).trans (scTick_settings _)).trans (scanTick_settings _)

/-- The grants that are no selection (R192, R213). -/
theorem grant_settings {u : MasterUnit} (hu : u ≠ .poll) (s : State) : SettingsFrame s (grant u s) := by
  cases u
  case poll => exact absurd rfl hu
  case sc => exact SettingsFrame.trans (.of_registers s) (beginTxn_settings .sc (scRequest s) _)
  case scan => exact beginTxn_settings .scan (scanRequest s) s

/-! ## The host operations that write neither configuration nor attempts -/

/-- The map, the configuration and the SC and SCAN registers are the same. -/
structure RegistersKept (s t : State) : Prop where
  rpmMap : t.rpmMap = s.rpmMap
  maxRpm : t.maxRpm = s.maxRpm
  sAlarm : t.sAlarm = s.sAlarm
  idSet : t.idSet = s.idSet
  pend : t.pend = s.pend
  cursor : t.poll.cursor = s.poll.cursor
  sc : t.sc = s.sc
  scan : t.scan = s.scan

theorem RegistersKept.refl (s : State) : RegistersKept s s := by
  constructor <;> rfl

theorem returnToHost_kept (r : HostResult) (s : State) : RegistersKept s (returnToHost r s) := by
  constructor <;> rfl

theorem setSlave_kept (p : Nat) (u : Slave) (s : State) : RegistersKept s (setSlave p u s) := by
  constructor <;> rfl

theorem stopSlave_kept (p : Nat) (u : Slave) (s : State) : RegistersKept s (stopSlave p u s) := by
  constructor <;> rfl

/-- The host operations that write the map, a configuration register, or the registers of SC or SCAN. -/
def writesRegisters : Instr → Bool
  | .scan _ _ _ _ _ | .trySet _ _ _ _ _ | .queueSet _ _ | .setMaxRpm _ | .loadIdSet _ | .setAlarm _ => true
  | .loadRpm _ _ => true
  | _ => false

theorem execPollCancel_kept {s t : State} (h : execPollCancel s = .next t) : RegistersKept s t := by
  unfold execPollCancel at h
  cases hst : s.poll.state <;> rw [hst] at h <;> cases h <;> constructor <;> rfl

theorem execSlaveStop_kept {port : Nat} {s t : State} (h : execSlaveStop port s = .next t) : RegistersKept s t := by
  obtain ⟨u, hu, h⟩ := withSlave_eq_next.mp h
  cases hst : u.state <;> rw [hst] at h
  case stopped | validating => cases h; exact .refl s
  case seeking | collecting | paused => cases h; exact stopSlave_kept _ _ _
  case dispatching =>
    cases hph : u.phase <;> rw [hph] at h <;> cases h
    case delay => exact stopSlave_kept _ _ _
    case send => exact setSlave_kept _ _ _

/-- Every other host operation leaves them alone. -/
theorem exec_hostOp_kept {i : Instr} {s t : State} (hi : i.isHostOp = true) (hw : writesRegisters i = false)
    (h : exec i s = .next t) : RegistersKept s t := by
  cases i
  case reqRead | reqSet | rspAck | rspRead => cases hi
  case scan | trySet | queueSet | setMaxRpm | loadIdSet | setAlarm | loadRpm => cases hw
  case encodeRequest | encodeTargetAck | encodeReadRsp | alarmDecode | alarmDescribe | alarmHasFault
      | alarmIsRemote =>
    cases h
    exact returnToHost_kept _ s
  case decodeResponse buffer n =>
    simp only [exec, execDecodeResponse] at h
    split at h <;> cases h <;> constructor <;> rfl
  case pollStart =>
    simp only [exec, execPollStart] at h
    split at h <;> cases h
    constructor <;> rfl
  case pollCancel => exact execPollCancel_kept h
  case estimate =>
    simp only [exec, execEstimate] at h
    split at h <;> cases h
    exact returnToHost_kept _ s
  case readRpm =>
    simp only [exec, execReadRpm] at h
    split at h <;> cases h
    exact returnToHost_kept _ s
  case slaveStart =>
    obtain ⟨u, hu, h⟩ := withSlave_eq_next.mp h
    split at h <;> cases h
    exact setSlave_kept _ _ s
  case slaveStop => exact execSlaveStop_kept h

/-! ## One event -/

/-- The configuration changed only as the events published meanwhile record. -/
structure ConfigKept (s t : State) : Prop where
  map : MapFollows s t
  maxRpm : t.maxRpm = s.maxRpm
  sAlarm : t.sAlarm = s.sAlarm
  idSet : t.idSet = s.idSet ∨ .scanDone t.idSet ∈ t.evOut.drop s.evOut.length
  pend : t.pend = s.pend
  cursor : t.poll.cursor = s.poll.cursor

theorem SettingsFrame.config {s t : State} (h : SettingsFrame s t) : ConfigKept s t :=
  ⟨h.map, h.maxRpm, h.sAlarm, h.idSet, h.pend, h.cursor⟩

theorem RegistersKept.config {s t : State} (h : RegistersKept s t) : ConfigKept s t :=
  ⟨.inl h.rpmMap, h.maxRpm, h.sAlarm, .inl h.idSet, h.pend, h.cursor⟩

theorem SlaveFrame.config {p : Nat} {s t : State} (h : SlaveFrame p s t) : ConfigKept s t :=
  ⟨h.map, h.maxRpm, h.sAlarm, .inl h.idSet, h.pend, by rw [h.poll]⟩

/-- In a tick only the master's part can end a scan. -/
theorem Ticked.config {parts : List Nat} {s t : State} (h : Ticked parts s t) : ConfigKept s t := by
  by_cases h0 : 0 ∈ parts
  · obtain ⟨m, hsm, hmt, hev, hev', -, -⟩ := h.master h0
    have hk := masterTick_settings m
    refine ⟨h.map, h.maxRpm, h.sAlarm, ?_, hmt.pend.trans (hk.pend.trans hsm.pend), ?_⟩
    · exact idSet_published_trans (hev.trans hk.evOut) hev'
        (idSet_published_trans hev hk.evOut (.inl hsm.idSet) hk.idSet) (.inl hmt.idSet)
    · rw [hmt.poll, hk.cursor, hsm.poll]
  · have hs := h.idle h0
    exact ⟨h.map, h.maxRpm, h.sAlarm, .inl hs.idSet, hs.pend, by rw [hs.poll]⟩

/-- What event `e` does to the configuration (R20 to R24, R32): it keeps it, up to what it publishes; or it is the one
host operation that writes this register; or it is a selection. -/
inductive ConfigMoved : Input → State → State → Prop where
  | kept {e : Input} {s t : State} (h : ConfigKept s t) : ConfigMoved e s t
  | loadRpm {c left : List Byte} {id : Byte} {v : Word16} {s : State} (hd : decode c = .ok (.loadRpm id v, left)) :
      ConfigMoved (.host c) s (writeMap id.toNat v s)
  | setMaxRpm {c left : List Byte} {v : Word16} {s : State} (hd : decode c = .ok (.setMaxRpm v, left)) :
      ConfigMoved (.host c) s { s with maxRpm := limitMaxRpm v }
  | setAlarm {c left : List Byte} {v : Word16} {s : State} (hd : decode c = .ok (.setAlarm v, left)) :
      ConfigMoved (.host c) s { s with sAlarm := v }
  | loadIdSet {c left : List Byte} {v : IdMask} {s : State} (hd : decode c = .ok (.loadIdSet v, left)) :
      ConfigMoved (.host c) s { s with idSet := v }
  | queueSet {c left : List Byte} {id : Byte} {v : Word16} {s : State} {p : Pending}
      (hd : decode c = .ok (.queueSet id v, left)) : ConfigMoved (.host c) s { s with pend := p }
  | selected {s : State} (hfree : s.lock = .free) : ConfigMoved (.grant .poll) s (pollGrant s)

theorem execScan_config {start stop retries : Byte} {interDelay readTimeout : Word16} {s t : State}
    (h : execScan start stop retries interDelay readTimeout s = .next t) : ConfigKept s t := by
  unfold execScan at h
  dsimp only at h
  split at h
  · split at h <;> cases h
    · exact ((SettingsFrame.of_registers s).trans (finishScan_settings _)).config
    · exact (SettingsFrame.of_registers s).config
  · cases h

theorem execTrySet_config {id : Byte} {rpm : Word16} {retries : Byte} {timeoutMs backoffMs : Word16} {s t : State}
    (h : execTrySet id rpm retries timeoutMs backoffMs s = .next t) : ConfigKept s t := by
  unfold execTrySet at h
  split at h <;> cases h
  exact (SettingsFrame.of_registers s).config

/-- What a host command does to the configuration. -/
theorem exec_hostOp_config {c left : List Byte} {i : Instr} {s t : State} (hd : decode c = .ok (i, left))
    (hi : i.isHostOp = true) (h : exec i s = .next t) : ConfigMoved (.host c) s t := by
  cases hw : writesRegisters i with
  | false => exact .kept (exec_hostOp_kept hi hw h).config
  | true =>
    cases i
    case scan => exact .kept (execScan_config h)
    case trySet => exact .kept (execTrySet_config h)
    case queueSet => cases h; exact .queueSet hd
    case setMaxRpm => cases h; exact .setMaxRpm hd
    case loadIdSet => cases h; exact .loadIdSet hd
    case setAlarm => cases h; exact .setAlarm hd
    case loadRpm =>
      simp only [exec, execLoadRpm] at h
      split at h <;> cases h
      exact .loadRpm hd
    all_goals cases hw

theorem Happened.config {e : Input} {s t : State} (h : Happened e s t) : ConfigMoved e s t := by
  cases h with
  | host hd hi h => exact exec_hostOp_config hd hi h
  | tick h => exact .kept h.config
  | none => exact .kept (RegistersKept.refl s).config
  | received acc ho ha => exact .kept (SettingsFrame.of_registers s).config
  | judged v ho =>
    exact .kept ((SettingsFrame.of_registers s).trans (deliver_settings v _)).config
  | sent => exact .kept (masterTxByte_settings s).config
  | fault => exact .kept (masterFault_settings s).config
  | @granted u _ h =>
    cases u
    case poll =>
      simp only [grantEnabled, Bool.and_eq_true, decide_eq_true_eq] at h
      exact .selected h.1
    all_goals exact .kept (grant_settings (by decide) s).config
  | skipped h => exact .kept (enterSleep_settings _ s).config
  | port h => exact .kept h.1.config

/-! ## The writers -/

/-- An entry that a step changes is recorded by an event that the step publishes, where the map follows them. -/
theorem MapFollows.recorded {s t : State} (h : MapFollows s t) {a : Nat} (h1 : 1 ≤ a) (h64 : a ≤ 64)
    (hne : readMap t a ≠ readMap s a) : ∃ e ∈ t.evOut.drop s.evOut.length, recordedRpm e = some (a, readMap t a) := by
  rcases h with h | h
  · exact absurd (readMap_congr h a) hne
  · exact (h a h1 h64).resolve_left hne

/-- An entry that differs after a write of the map is the one written, and holds what was written. -/
theorem eq_of_readMap_writeMap_ne {id a : Nat} {v : Word16} {s : State} (h1 : 1 ≤ a) (h64 : a ≤ 64)
    (hne : readMap (writeMap id v s) a ≠ readMap s a) : id = a ∧ readMap (writeMap id v s) a = v := by
  by_cases ha : a = id
  · subst ha
    exact ⟨rfl, readMap_writeMap_self v s ⟨h1, h64⟩⟩
  · exact absurd (readMap_writeMap_other v s h1 ha) hne

/-- No host command waits among the internal events. -/
theorem host_not_mem_enabledInternal (c : List Byte) (s : State) : .host c ∉ enabledInternal s := by
  simp only [enabledInternal, List.mem_append, not_or]
  refine ⟨⟨⟨?_, ?_⟩, ?_⟩, ?_⟩ <;> split <;> simp

/-- What a step does to the configuration, by the event it takes at the state that has counted it; a host command is
the next input. -/
theorem step_config {s t : State} (h : step s = .next t) :
    ∃ e rest n, ConfigMoved e { s with inputs := rest, freeCount := n } t ∧
      ∀ c, e = .host c → s.inputs = .host c :: rest := by
  rcases step_cases h with ⟨-, -, rfl⟩ | ⟨e, rest, n, hin, hH⟩
  · exact ⟨.tick, t.inputs, t.freeCount, .kept (RegistersKept.refl t).config, by simp⟩
  · refine ⟨e, rest, n, hH.config, ?_⟩
    rintro c rfl
    exact hin.resolve_right fun hi => host_not_mem_enabledInternal c s hi.2

/-- Settles O59: by what one event does to the configuration, each change traced to the writer named. -/
theorem configurationHasItsOwnWriters : Obligations.ConfigurationHasItsOwnWriters := by
  intro s t h
  obtain ⟨e, rest, n, hm, hhost⟩ := step_config h
  obtain ⟨new, hnew⟩ := (stepsOnlyExtendTheTraces s t h).evOut
  have published : ∀ e ∈ t.evOut.drop s.evOut.length, e ∈ new := fun e he => by simpa [← hnew] using he
  cases hm with
  | kept hk =>
    refine ⟨fun a h1 h64 hne => .inr ?_, (absurd hk.maxRpm ·), (absurd hk.sAlarm ·), fun hne => .inr ?_,
      (absurd hk.pend ·), (absurd hk.cursor ·)⟩
    · obtain ⟨e, he, hr⟩ := hk.map.recorded h1 h64 hne
      exact ⟨new, e, hnew.symm, published e he, hr⟩
    · exact ⟨new, hnew.symm, published _ (hk.idSet.resolve_left hne)⟩
  | @loadRpm c left id v _ hd =>
    refine ⟨fun a h1 h64 hne => .inl ?_, (absurd (writeMap_maxRpm _ _ _) ·), (absurd (writeMap_sAlarm _ _ _) ·),
      (absurd (writeMap_idSet _ _ _) ·), (absurd (writeMap_pend _ _ _) ·), (absurd (by simp) ·)⟩
    obtain ⟨hid, hv⟩ := eq_of_readMap_writeMap_ne h1 h64 hne
    exact ⟨c, rest, id, v, left, hhost c rfl, hd, hid, hv⟩
  | @setMaxRpm c left v _ hd =>
    exact ⟨fun _ _ _ => absurd rfl, fun _ => ⟨c, rest, v, left, hhost c rfl, hd⟩, absurd rfl, absurd rfl, absurd rfl,
      absurd rfl⟩
  | @setAlarm c left v _ hd =>
    exact ⟨fun _ _ _ => absurd rfl, absurd rfl, fun _ => ⟨c, rest, v, left, hhost c rfl, hd⟩, absurd rfl, absurd rfl,
      absurd rfl⟩
  | @loadIdSet c left v _ hd =>
    exact ⟨fun _ _ _ => absurd rfl, absurd rfl, absurd rfl, fun _ => .inl ⟨c, rest, v, left, hhost c rfl, hd⟩,
      absurd rfl, absurd rfl⟩
  | @queueSet c left id v _ p hd =>
    exact ⟨fun _ _ _ => absurd rfl, absurd rfl, absurd rfl, absurd rfl,
      fun _ => .inl ⟨c, rest, id, v, left, hhost c rfl, hd⟩, absurd rfl⟩
  | selected hfree =>
    exact ⟨fun _ _ _ => absurd rfl, absurd rfl, absurd rfl, absurd rfl, fun _ => .inr ⟨hfree, rfl⟩,
      fun _ => ⟨hfree, rfl⟩⟩

end Sys2Proof.Machine
end

section
/-! SUPPORT. The ranges of the registers (R21, R24, R35, R36): what the operations of SC and SCAN keep, and what
every event keeps. -/

namespace Sys2Proof.Machine

/-! ## The ranges, one register group at a time -/

/-- A queued Set names an id 1..64 and an RPM under the cap (R24). -/
def PendRange (pend : Pending) : Prop :=
  pend.valid = true → 1 ≤ pend.id.toNat ∧ pend.id.toNat ≤ 64 ∧ pend.rpm.toNat ≤ maxRpmCap

/-- A TRYSET in progress names an id 1..64 and an RPM under the cap, with an attempt left (R35). -/
def ScRange (sc : SetConfirm) : Prop :=
  sc.state ≠ .idle →
    1 ≤ sc.id.toNat ∧ sc.id.toNat ≤ 64 ∧ sc.rpm.toNat ≤ maxRpmCap ∧ 1 ≤ sc.left.toNat ∧ sc.left.toNat ≤ 256

/-- The ids a scan still has to probe, from the current one on, lie in 1..64 (R36). -/
def ProbeRange (scan : Scan) : Prop :=
  1 ≤ scan.cur.toNat ∧ scan.cur.toNat ≤ scan.hi.toNat ∧ scan.hi.toNat ≤ 64

/-- A scan in progress: its ids, its attempts but between two ids, and an id left between two ids (R36, R195, R196). -/
structure ScanRange (scan : Scan) : Prop where
  probe : scan.state ≠ .idle → ProbeRange scan
  left : scan.state ≠ .idle → scan.state ≠ .interDelay → 1 ≤ scan.left.toNat ∧ scan.left.toNat ≤ 256
  between : scan.state = .interDelay → scan.cur ≠ scan.hi

/-- The units that count attempts keep to their ranges. -/
structure UnitsInRange (s : State) : Prop where
  sc : ScRange s.sc
  scan : ScanRange s.scan

theorem rangesInv_iff (s : State) :
    RangesInv s ↔ s.maxRpm.toNat ≤ maxRpmCap ∧ PendRange s.pend ∧ UnitsInRange s :=
  ⟨fun h => ⟨h.maxRpm, h.pend, h.sc, h.scan, h.scanLeft, h.between⟩,
    fun ⟨hmax, hpend, hunits⟩ =>
      ⟨hmax, hpend, hunits.sc, hunits.scan.probe, hunits.scan.left, hunits.scan.between⟩⟩

theorem RangesInv.units {s : State} (h : RangesInv s) : UnitsInRange s := ((rangesInv_iff s).mp h).2.2

theorem UnitsInRange.congr {s t : State} (h : UnitsInRange s) (hsc : t.sc = s.sc) (hscan : t.scan = s.scan) :
    UnitsInRange t := ⟨hsc ▸ h.sc, hscan ▸ h.scan⟩

/-- Where MAXRPM and PEND are the same, only SC and SCAN have to be looked at. -/
theorem RangesInv.of_units {s t : State} (h : RangesInv s) (hmax : t.maxRpm = s.maxRpm) (hpend : t.pend = s.pend)
    (hunits : UnitsInRange t) : RangesInv t :=
  (rangesInv_iff t).mpr ⟨hmax ▸ h.maxRpm, hpend ▸ h.pend, hunits⟩

theorem RangesInv.congr {s t : State} (h : RangesInv s) (hmax : t.maxRpm = s.maxRpm) (hpend : t.pend = s.pend)
    (hsc : t.sc = s.sc) (hscan : t.scan = s.scan) : RangesInv t :=
  h.of_units hmax hpend (h.units.congr hsc hscan)

/-- An idle SC holds no TRYSET. -/
theorem ScRange.of_idle {sc : SetConfirm} (h : sc.state = .idle) : ScRange sc := fun hne => absurd h hne

/-- An idle SCAN holds no scan. -/
theorem ScanRange.of_idle {scan : Scan} (h : scan.state = .idle) : ScanRange scan := by
  constructor <;> simp [h]

/-- A TRYSET goes on: only its state, timer, attempt counters changed, with an attempt left. -/
theorem ScRange.going {sc : SetConfirm} (h : ScRange sc) (hb : sc.state ≠ .idle) {st : ScState} {left sent : BitVec 9}
    {timer : Word16} (hleft : 1 ≤ left.toNat ∧ left.toNat ≤ 256) :
    ScRange { sc with state := st, left := left, sent := sent, timer := timer } := by
  obtain ⟨h1, h64, hrpm, -, -⟩ := h hb
  exact fun _ => ⟨h1, h64, hrpm, hleft.1, hleft.2⟩

/-- A TRYSET goes on with the same attempts left. -/
theorem ScRange.moved {sc : SetConfirm} (h : ScRange sc) (hb : sc.state ≠ .idle) {st : ScState} {sent : BitVec 9}
    {timer : Word16} : ScRange { sc with state := st, sent := sent, timer := timer } := by
  obtain ⟨-, -, -, hleft⟩ := h hb
  exact h.going hb hleft

/-- A scan goes on with its current id, with an attempt left. -/
theorem ProbeRange.going {scan : Scan} (h : ProbeRange scan) {st : ScanState} (hst : st ≠ .interDelay)
    {left : BitVec 9} {timer : Word16} (hleft : 1 ≤ left.toNat ∧ left.toNat ≤ 256) :
    ScanRange { scan with state := st, left := left, timer := timer } :=
  ⟨fun _ => h, fun _ _ => hleft, fun k => absurd k hst⟩

/-- A scan goes on with its current id and the same attempts left. -/
theorem ScanRange.moved {scan : Scan} (h : ScanRange scan) (hb : scan.state ≠ .idle) (hd : scan.state ≠ .interDelay)
    {st : ScanState} (hst : st ≠ .interDelay) {timer : Word16} :
    ScanRange { scan with state := st, timer := timer } :=
  (h.probe hb).going hst (h.left hb hd)

/-! ## Operands and counters -/

/-- `retries + 1` attempts are at least one and at most 256 (R35, R36). -/
theorem attempts_range (retries : Byte) : 1 ≤ (attempts retries).toNat ∧ (attempts retries).toNat ≤ 256 := by
  unfold attempts
  bv_omega

/-- An attempt fails and it is not the last. -/
theorem attempt_left {left : BitVec 9} (h : 1 ≤ left.toNat ∧ left.toNat ≤ 256) (hne : left - 1 ≠ 0) :
    1 ≤ (left - 1).toNat ∧ (left - 1).toNat ≤ 256 := by
  bv_omega

theorem clamp_bounds (v : Nat) {lo hi : Nat} (h : lo ≤ hi) : lo ≤ clamp v lo hi ∧ clamp v lo hi ≤ hi := by
  unfold clamp
  split
  · exact ⟨Nat.le_refl _, h⟩
  · split <;> omega

/-- A clamped id is an id 1..64, in the seven bits of a register too. -/
theorem idRegister_clampId_range (id : Byte) :
    1 ≤ (idRegister (clampId id)).toNat ∧ (idRegister (clampId id)).toNat ≤ 64 := by
  have hclamp : 1 ≤ clamp id.toNat idMin idMax ∧ clamp id.toNat idMin idMax ≤ 64 := clamp_bounds _ (by decide)
  simp only [idRegister, clampId, BitVec.toNat_setWidth, BitVec.toNat_ofNat]
  omega

/-- An RPM limited to a ceiling is at most the ceiling. -/
theorem limitRpm_le (rpm : Word16) (maxRpm : BitVec 11) : (limitRpm rpm maxRpm).toNat ≤ maxRpm.toNat := by
  rw [limitRpm, BitVec.toNat_ofNat]
  exact (Nat.mod_le _ _).trans (Nat.min_le_right _ _)

/-- A ceiling set by the host is at most the hard cap (R310). -/
theorem limitMaxRpm_le (value : Word16) : (limitMaxRpm value).toNat ≤ maxRpmCap := by
  rw [limitMaxRpm, BitVec.toNat_ofNat]
  exact (Nat.mod_le _ _).trans (Nat.min_le_right _ _)

/-- The next id of a scan that has not reached its last one. -/
theorem ProbeRange.succ {scan : Scan} (h : ProbeRange scan) (hne : scan.cur ≠ scan.hi) :
    ProbeRange { scan with cur := scan.cur + 1 } := by
  obtain ⟨h1, hle, h64⟩ := h
  have hlt : scan.cur.toNat < scan.hi.toNat := lt_of_le_of_ne hle fun k => hne (BitVec.eq_of_toNat_eq k)
  have hcur : (scan.cur + 1).toNat = scan.cur.toNat + 1 := by bv_omega
  exact ⟨hcur.symm ▸ Nat.le_add_left 1 _, hcur.symm ▸ hlt, h64⟩

/-! ## What the master's operations keep -/

section
variable {s : State}

/-- U transmits its request or awaits the response: it owns the lock (R175 (a)). -/
def InTransaction (s : State) (u : MasterUnit) : Prop := inTransmit s u = true ∨ inAwait s u = true

theorem InTransaction.sc_busy (h : InTransaction s .sc) : s.sc.state ≠ .idle := by
  rcases h with h | h <;> simp_all [inTransmit, inAwait]

theorem InTransaction.scan_busy (h : InTransaction s .scan) : s.scan.state ≠ .idle ∧ s.scan.state ≠ .interDelay := by
  rcases h with h | h <;> simp_all [inTransmit, inAwait]

/-- The unit in whose await window a verdict arrives. -/
theorem inTransaction_of_awaiting {u : MasterUnit} (h : awaiting s = some u) : InTransaction s u := by
  unfold awaiting at h
  split at h
  · cases h
  · split at h <;> cases h
    exact .inr ‹_›

theorem scAttemptFailed_inRange (h : UnitsInRange s) (hb : s.sc.state ≠ .idle) : UnitsInRange (scAttemptFailed s) := by
  obtain ⟨-, -, -, hleft⟩ := h.sc hb
  unfold scAttemptFailed
  dsimp only
  split
  · exact ⟨.of_idle rfl, h.scan⟩
  · rename_i hne
    split <;> exact ⟨h.sc.going hb (attempt_left hleft hne), h.scan⟩

theorem leaveInterDelay_inRange (hsc : ScRange s.sc) (hprobe : ProbeRange s.scan) (hne : s.scan.cur ≠ s.scan.hi) :
    UnitsInRange (leaveInterDelay s) :=
  ⟨hsc, (hprobe.succ hne).going (by decide) (attempts_range _)⟩

theorem nextId_inRange (hsc : ScRange s.sc) (hprobe : ProbeRange s.scan) : UnitsInRange (nextId s) := by
  unfold nextId
  split
  · exact ⟨hsc, .of_idle rfl⟩
  · rename_i hne
    dsimp only
    split
    · exact leaveInterDelay_inRange hsc hprobe hne
    · exact ⟨hsc, fun _ => hprobe, fun _ k => absurd rfl k, fun _ => hne⟩

theorem scanAttemptFailed_inRange (h : UnitsInRange s) (hb : s.scan.state ≠ .idle)
    (hd : s.scan.state ≠ .interDelay) : UnitsInRange (scanAttemptFailed s) := by
  have hprobe := h.scan.probe hb
  have hleft := h.scan.left hb hd
  unfold scanAttemptFailed
  dsimp only
  split
  · exact nextId_inRange h.sc hprobe
  · rename_i hne
    split <;> exact ⟨h.sc, hprobe.going (by decide) (attempt_left hleft hne)⟩

theorem enterSleep_inRange (d : Word16) (h : UnitsInRange s) : UnitsInRange (enterSleep d s) :=
  h.congr (enterSleep_sc d s) (enterSleep_scan d s)

@[simp] theorem dispatchResponse_sc (p : ParsedResponse) (s : State) : (dispatchResponse p s).sc = s.sc := by
  cases p <;> simp [dispatchResponse]

@[simp] theorem dispatchResponse_scan (p : ParsedResponse) (s : State) : (dispatchResponse p s).scan = s.scan := by
  cases p <;> simp [dispatchResponse]

theorem pollVerdict_inRange (v : Verdict) (h : UnitsInRange s) : UnitsInRange (pollVerdict v s) := by
  unfold pollVerdict
  refine enterSleep_inRange _ ?_
  cases v
  case ok p w => exact h.congr (dispatchResponse_sc p _) (dispatchResponse_scan p _)
  case bad e w => exact h.congr rfl rfl

theorem scVerdict_inRange (v : Verdict) (h : UnitsInRange s) : UnitsInRange (scVerdict v s) := by
  cases v
  case bad e w => exact h.congr rfl rfl
  case ok p w =>
    have hp : UnitsInRange (dispatchResponse p s) := h.congr (dispatchResponse_sc p s) (dispatchResponse_scan p s)
    unfold scVerdict
    dsimp only
    split
    · exact ⟨.of_idle rfl, hp.scan⟩
    · exact hp

theorem scanVerdict_inRange (v : Verdict) (h : UnitsInRange s) (hb : s.scan.state ≠ .idle) :
    UnitsInRange (scanVerdict v s) := by
  cases v
  case bad e w => exact h.congr rfl rfl
  case ok p w =>
    have hp : UnitsInRange (dispatchResponse p s) := h.congr (dispatchResponse_sc p s) (dispatchResponse_scan p s)
    unfold scanVerdict
    dsimp only
    split
    · exact nextId_inRange hp.sc (hp.scan.probe (by simpa using hb))
    · exact hp

theorem deliver_inRange (v : Verdict) (h : UnitsInRange s) : UnitsInRange (deliver v s) := by
  unfold deliver
  split
  · exact h
  · exact pollVerdict_inRange v h
  · exact scVerdict_inRange v h
  · rename_i hawait
    exact scanVerdict_inRange v h (inTransaction_of_awaiting hawait).scan_busy.1

/-- A deadline ends the attempt of a unit in its transaction. -/
theorem deadline_inRange (u : MasterUnit) (h : UnitsInRange s) (hu : InTransaction s u) :
    UnitsInRange (deadline u s) := by
  have key : ∀ m : State, m.sc = s.sc → m.scan = s.scan → UnitsInRange (deadlineTail u m) := by
    intro m hsc hscan
    have hend : UnitsInRange (endTxn u [] true false m) := h.congr hsc hscan
    cases u
    case poll => exact enterSleep_inRange _ hend
    case sc => exact scAttemptFailed_inRange hend (by simpa [hsc] using hu.sc_busy)
    case scan =>
      exact scanAttemptFailed_inRange hend (by simpa [hscan] using hu.scan_busy.1)
        (by simpa [hscan] using hu.scan_busy.2)
  unfold deadline
  dsimp only
  split <;> exact key _ rfl rfl

theorem enterAwait_inRange (u : MasterUnit) (h : UnitsInRange s) (hu : InTransaction s u) :
    UnitsInRange (enterAwait u s) := by
  cases u
  case poll => exact h.congr rfl rfl
  case sc => exact ⟨h.sc.moved hu.sc_busy, h.scan⟩
  case scan => exact ⟨h.sc, h.scan.moved hu.scan_busy.1 hu.scan_busy.2 (by decide)⟩

/-- `enterAwait` puts the unit in its await state (R162). -/
theorem enterAwait_inTransaction (u : MasterUnit) (s : State) : InTransaction (enterAwait u s) u := by
  cases u <;> exact .inr (by simp [inAwait, enterAwait])

theorem openWindow_inRange (u : MasterUnit) (h : UnitsInRange s) (hu : InTransaction s u) :
    UnitsInRange (openWindow u s) := by
  have hbase : UnitsInRange (enterAwait u { s with mAcc := [], txn := { s.txn with elapsed := 0 } }) :=
    enterAwait_inRange u (h.congr rfl rfl) (by cases u <;> exact hu)
  unfold openWindow
  dsimp only
  split
  · exact deadline_inRange u hbase (enterAwait_inTransaction u _)
  · exact hbase

theorem masterTxByte_inRange (hlock : LockFollowsStates s) (h : UnitsInRange s) : UnitsInRange (masterTxByte s) := by
  unfold masterTxByte
  split
  · exact h
  · dsimp only
    split
    · rename_i u hu _
      exact openWindow_inRange u (h.congr rfl rfl) (by cases u <;> exact (hlock _).mp hu)
    · exact h.congr rfl rfl

theorem masterFault_inRange (hlock : LockFollowsStates s) (h : UnitsInRange s) : UnitsInRange (masterFault s) := by
  unfold masterFault
  split
  · exact h
  · rename_i u hu
    have htxn : InTransaction s u := (hlock u).mp hu
    cases u
    case poll => exact enterSleep_inRange _ (h.congr rfl rfl)
    case sc => exact scAttemptFailed_inRange (h.congr rfl rfl) htxn.sc_busy
    case scan => exact scanAttemptFailed_inRange (h.congr rfl rfl) htxn.scan_busy.1 htxn.scan_busy.2

theorem pollTick_inRange (h : UnitsInRange s) : UnitsInRange (pollTick s) :=
  h.congr (pollTick_others s).1 (pollTick_others s).2

theorem scTick_inRange (h : UnitsInRange s) : UnitsInRange (scTick s) := by
  unfold scTick
  split
  case h_1 hst =>
    have hbase : UnitsInRange { s with sc := { s.sc with timer := s.sc.timer - 1 } } :=
      ⟨h.sc.moved (by simp [hst]), h.scan⟩
    dsimp only
    split
    · exact deadline_inRange .sc hbase (.inr (by simp [inAwait, hst]))
    · exact hbase
  case h_2 hst => exact ⟨h.sc.moved (by simp [hst]), h.scan⟩
  all_goals exact h

theorem scanInterDelayTick_inRange (h : UnitsInRange s) (hst : s.scan.state = .interDelay) :
    UnitsInRange (scanInterDelayTick s) := by
  have hprobe : ProbeRange s.scan := h.scan.probe (by simp [hst])
  have hne := h.scan.between hst
  unfold scanInterDelayTick
  dsimp only
  split
  · exact leaveInterDelay_inRange h.sc hprobe hne
  · exact ⟨h.sc, fun _ => hprobe, fun _ k => absurd hst k, fun _ => hne⟩

theorem scanTick_inRange (h : UnitsInRange s) : UnitsInRange (scanTick s) := by
  unfold scanTick
  split
  case h_1 hst =>
    have hbase : UnitsInRange { s with scan := { s.scan with timer := s.scan.timer - 1 } } :=
      ⟨h.sc, h.scan.moved (by simp [hst]) (by simp [hst]) (by simp [hst])⟩
    dsimp only
    split
    · exact deadline_inRange .scan hbase (.inr (by simp [inAwait, hst]))
    · exact hbase
  case h_2 hst =>
    exact ⟨h.sc, h.scan.moved (by simp [hst]) (by simp [hst]) (by split <;> decide)⟩
  case h_3 hst => exact scanInterDelayTick_inRange h hst
  all_goals exact h

theorem countElapsed_inRange (h : UnitsInRange s) : UnitsInRange (countElapsed s) := by
  unfold countElapsed
  split
  · exact h.congr rfl rfl
  · exact h

theorem masterTick_inRange (h : UnitsInRange s) : UnitsInRange (masterTick s) :=
  scanTick_inRange (scTick_inRange (pollTick_inRange (countElapsed_inRange h)))

end

/-! ## The events -/

section
variable {s t : State}

/-- A master operation that is no selection keeps the ranges if it keeps those of SC and SCAN. -/
theorem SettingsFrame.ranges (hf : SettingsFrame s t) (h : RangesInv s) (hunits : UnitsInRange t) : RangesInv t :=
  h.of_units hf.maxRpm hf.pend hunits

theorem SameMaster.ranges (hs : SameMaster s t) (h : RangesInv s) : RangesInv t :=
  h.congr hs.maxRpm hs.pend hs.sc hs.scan

theorem RegistersKept.ranges (hk : RegistersKept s t) (h : RangesInv s) : RangesInv t :=
  h.congr hk.maxRpm hk.pend hk.sc hk.scan

theorem Ticked.ranges {parts : List Nat} (ht : Ticked parts s t) (h : RangesInv s) : RangesInv t := by
  by_cases h0 : 0 ∈ parts
  · obtain ⟨m, hsm, hmt, -⟩ := ht.master h0
    have hm : RangesInv m := hsm.ranges h
    exact hmt.ranges ((masterTick_settings m).ranges hm (masterTick_inRange hm.units))
  · exact (ht.idle h0).ranges h

theorem execTrySet_ranges {id : Byte} {rpm : Word16} {retries : Byte} {timeoutMs backoffMs : Word16}
    (he : execTrySet id rpm retries timeoutMs backoffMs s = .next t) (h : RangesInv s) : RangesInv t := by
  unfold execTrySet at he
  split at he <;> cases he
  refine h.of_units rfl rfl ⟨fun _ => ?_, h.units.scan⟩
  obtain ⟨h1, h64⟩ := idRegister_clampId_range id
  exact ⟨h1, h64, (limitRpm_le rpm _).trans h.maxRpm, attempts_range retries⟩

theorem execScan_ranges {start stop retries : Byte} {interDelay readTimeout : Word16}
    (he : execScan start stop retries interDelay readTimeout s = .next t) (h : RangesInv s) : RangesInv t := by
  unfold execScan at he
  dsimp only at he
  split at he
  · split at he <;> cases he
    · exact h.of_units rfl rfl ⟨h.units.sc, .of_idle rfl⟩
    · rename_i hle
      refine h.of_units rfl rfl ⟨h.units.sc, fun _ => ?_, fun _ _ => attempts_range retries, by simp⟩
      simp only [ProbeRange, BitVec.toNat_ofNat, idMin, idMax] at hle ⊢
      omega
  · cases he

theorem execQueueSet_ranges {id : Byte} {rpm : Word16} (he : execQueueSet id rpm s = .next t) (h : RangesInv s) :
    RangesInv t := by
  cases he
  obtain ⟨h1, h64⟩ := idRegister_clampId_range id
  exact (rangesInv_iff _).mpr ⟨h.maxRpm, fun _ => ⟨h1, h64, (limitRpm_le rpm _).trans h.maxRpm⟩, h.units.congr rfl rfl⟩

/-- Every host operation keeps the ranges: its operands are clamped (R190, R211, R310, R313). -/
theorem exec_hostOp_ranges {i : Instr} (hi : i.isHostOp = true) (he : exec i s = .next t) (h : RangesInv s) :
    RangesInv t := by
  cases hw : writesRegisters i with
  | false => exact (exec_hostOp_kept hi hw he).ranges h
  | true =>
    cases i
    case scan => exact execScan_ranges he h
    case trySet => exact execTrySet_ranges he h
    case queueSet => exact execQueueSet_ranges he h
    case setMaxRpm value =>
      cases he
      exact (rangesInv_iff _).mpr ⟨limitMaxRpm_le value, h.pend, h.units.congr rfl rfl⟩
    case loadIdSet | setAlarm =>
      cases he
      exact h.congr rfl rfl rfl rfl
    case loadRpm =>
      simp only [exec, execLoadRpm] at he
      split at he <;> cases he
      exact h.congr (by simp) (by simp) (by simp) (by simp)
    all_goals cases hw

/-- A grant begins an attempt of a unit that waits for the lock (R192, R213, R243); a selection consumes the queued
Set (R244). -/
theorem grant_ranges {u : MasterUnit} (hg : grantEnabled s u = true) (h : RangesInv s) : RangesInv (grant u s) := by
  cases u
  case poll => exact (rangesInv_iff _).mpr ⟨h.maxRpm, fun hv => absurd hv Bool.false_ne_true, h.units.congr rfl rfl⟩
  case sc =>
    have hst : s.sc.state = .lockWait := by simp_all [grantEnabled, waitsForLock]
    exact h.of_units rfl rfl ⟨h.units.sc.moved (by simp [hst]), h.units.scan⟩
  case scan =>
    have hst : s.scan.state = .lockWait := by simp_all [grantEnabled, waitsForLock]
    exact h.of_units rfl rfl ⟨h.units.sc, h.units.scan.moved (by simp [hst]) (by simp [hst]) (by decide)⟩

theorem Happened.ranges {e : Input} (hh : Happened e s t) (hlock : LockFollowsStates s) (h : RangesInv s) :
    RangesInv t := by
  cases hh with
  | host hd hi he => exact exec_hostOp_ranges hi he h
  | tick ht => exact ht.ranges h
  | none => exact h
  | received acc ho ha => exact h.congr rfl rfl rfl rfl
  | judged v ho =>
    exact (deliver_settings v _).ranges (h.congr rfl rfl rfl rfl) (deliver_inRange v (h.units.congr rfl rfl))
  | sent => exact (masterTxByte_settings s).ranges h (masterTxByte_inRange hlock h.units)
  | fault => exact (masterFault_settings s).ranges h (masterFault_inRange hlock h.units)
  | granted hg => exact grant_ranges hg h
  | skipped hs => exact (enterSleep_settings _ s).ranges h (enterSleep_inRange _ h.units)
  | port hp => exact hp.1.same.ranges h

end

/-- The lock follows the units' states whatever inputs wait. -/
theorem LockFollowsStates.congr {s t : State} (h : LockFollowsStates s) (hlock : t.lock = s.lock)
    (hpoll : t.poll = s.poll) (hsc : t.sc = s.sc) (hscan : t.scan = s.scan) : LockFollowsStates t := by
  intro u
  have hu := h u
  cases u <;> simpa [inTransmit, inAwait, hlock, hpoll, hsc, hscan] using hu

/-- Settles O57: by what a step can do; the lock's owner has an attempt in progress, whichever event ends it. -/
theorem stepKeepsRegisterRanges : Obligations.StepKeepsRegisterRanges := by
  intro s t hinv h hstep
  rcases step_cases hstep with ⟨-, -, rfl⟩ | ⟨e, rest, n, -, hH⟩
  · exact h
  · exact hH.ranges (hinv.lock.congr rfl rfl rfl rfl) (h.congr rfl rfl rfl rfl)

end Sys2Proof.Machine
end

section
/-! SUPPORT. The encodings (R90 to R93, R104): every instruction is read back from its bytes, and a frame is the only
sequence of bytes that decodes to it. -/

namespace Sys2Proof.Machine

/-! ## Reading back what was encoded -/

/-- A byte that could be an op number is no magic byte, so what follows it is read as operands (R90, R105). -/
theorem decode_opByte {op : Byte} (hop : op.toNat ≤ 31) (t : List Byte) : decode (op :: t) = decodeHostOp op t := by
  have hreq : op ≠ reqMagic0 := by
    rintro rfl
    exact absurd hop (by decide)
  have hrsp : op ≠ rspMagic0 := by
    rintro rfl
    exact absurd hop (by decide)
  rw [decode, if_neg hreq, if_neg hrsp]

/-- A host operation is read by its op number, 0..20, and its operands (R104). -/
theorem decode_operation {op : Byte} {t rest : List Byte} {i : Instr} (hop : op.toNat ≤ 20)
    (h : decodeOperands op.toNat t = some (i, rest)) : decode (op :: t) = .ok (i, rest) := by
  rw [decode_opByte (hop.trans (by decide)), decodeHostOp, if_pos hop, h]

/-- A frame is read back from its bytes: the magic and the Command select the row it was built for. -/
theorem decode_encode_frame {i : Instr} (hi : i.isHostOp = false) (rest : List Byte) :
    decode (encode i ++ rest) = .ok (i, rest) := by
  cases i
  case reqRead => rfl
  case reqSet => simp [encode, decode, decodeRequestFrame]
  case rspAck => simp [encode, decode, decodeResponseFrame]
  case rspRead => simp [encode, decode, decodeResponseFrame]
  all_goals cases hi

/-- A host operation is read back from its bytes: each operand by its own code, in order. -/
theorem decode_encode_hostOp {i : Instr} (hi : i.isHostOp = true) (rest : List Byte) :
    decode (encode i ++ rest) = .ok (i, rest) := by
  cases i
  case reqRead | reqSet | rspAck | rspRead => cases hi
  all_goals exact decode_operation (by decide) (by simp [decodeOperands])

/-! ## What decodes to a frame -/

/-- The operands of an op number make a host operation, never a frame. -/
theorem decodeOperands_isHostOp (op : Nat) (t : List Byte) :
    (decodeOperands op t).all (fun r => r.1.isHostOp) = true := by
  unfold decodeOperands
  split <;> simp [Option.all_bind, Function.comp_def, Instr.isHostOp]

/-- A request frame is the only sequence of bytes of its direction that decodes to it (R100). -/
theorem eq_encode_of_decodeRequestFrame {bytes rest : List Byte} {i : Instr} (hm : bytes.head? = some reqMagic0)
    (h : decodeRequestFrame bytes = .ok (i, rest)) : bytes = encode i ++ rest := by
  revert h
  fun_cases decodeRequestFrame bytes with
  | case1 | case4 | case5 => nofun
  | case2 | case3 =>
    rintro ⟨⟩
    simp_all [encode]

/-- A response frame is the only sequence of bytes of its direction that decodes to it (R101). -/
theorem eq_encode_of_decodeResponseFrame {bytes rest : List Byte} {i : Instr} (hm : bytes.head? = some rspMagic0)
    (h : decodeResponseFrame bytes = .ok (i, rest)) : bytes = encode i ++ rest := by
  revert h
  fun_cases decodeResponseFrame bytes with
  | case1 | case3 | case5 | case6 | case7 => nofun
  | case2 | case4 =>
    rintro ⟨⟩
    simp_all [encode]

/-- What is read by an op number is a host operation. -/
theorem decodeHostOp_isHostOp {op : Byte} {t rest : List Byte} {i : Instr}
    (h : decodeHostOp op t = .ok (i, rest)) : i.isHostOp = true := by
  revert h
  fun_cases decodeHostOp op t with
  | case1 hop r hr =>
    rintro ⟨⟩
    have hall := decodeOperands_isHostOp op.toNat t
    rwa [hr] at hall
  | case2 | case3 => nofun

/-- A frame is the only sequence of bytes that decodes to it, up to the bytes after it. -/
theorem decode_frame_iff {bytes rest : List Byte} {i : Instr} (hi : i.isHostOp = false) :
    decode bytes = .ok (i, rest) ↔ bytes = encode i ++ rest := by
  constructor
  · fun_cases decode bytes with
    | case1 => nofun
    | case2 t => exact eq_encode_of_decodeRequestFrame rfl
    | case3 t => exact eq_encode_of_decodeResponseFrame rfl
    | case4 op t =>
      intro h
      exact absurd (hi.symm.trans (decodeHostOp_isHostOp h)) Bool.false_ne_true
  · rintro rfl
    exact decode_encode_frame hi rest

/-- Settles O53: a frame by its magic and Command, a host operation by its op number and operand codes; back from
bytes, a frame by the row its magic and Command select. -/
theorem decodeAndEncodeAgree : Obligations.DecodeAndEncodeAgree := by
  refine ⟨fun i rest => ?_, fun bytes rest i h hi => (decode_frame_iff hi).mp h⟩
  cases hi : i.isHostOp
  case false => exact decode_encode_frame hi rest
  case true => exact decode_encode_hostOp hi rest

end Sys2Proof.Machine
end

section
/-! SUPPORT. The opcode table's masks and the conditions on top of them (R91 to R94, R100, R101, R104, R105). -/

namespace Sys2Proof.Machine

/-! ## A word of the table and its bytes -/

theorem tableBytes_length (k w : Nat) : (tableBytes k w).length = k := by
  induction k with
  | zero => rfl
  | succ k ih => rw [tableBytes, List.length_cons, ih]

/-- `k` bytes hold the word's lowest `8 * k` bits, and nothing else. -/
theorem tableBytes_eq_iff (k v w : Nat) :
    tableBytes k v = tableBytes k w ↔ v % 2 ^ (8 * k) = w % 2 ^ (8 * k) := by
  induction k with
  | zero => simp [tableBytes, Nat.mod_one]
  | succ k ih =>
    have top : ∀ n, n % 2 ^ (8 * (k + 1)) / 2 ^ (8 * k) = n / 2 ^ (8 * k) % 2 ^ 8 := by
      intro n
      rw [Nat.mul_succ, pow_add, Nat.mod_mul_right_div_self]
    have low : ∀ n, n % 2 ^ (8 * (k + 1)) % 2 ^ (8 * k) = n % 2 ^ (8 * k) := by
      intro n
      rw [Nat.mul_succ, pow_add, Nat.mod_mul_right_mod]
    rw [tableBytes, tableBytes, List.cons.injEq, ih, ← BitVec.toNat_inj, BitVec.toNat_ofNat, BitVec.toNat_ofNat,
      ← top, ← top, ← low v, ← low w]
    constructor
    · rintro ⟨hdiv, hmod⟩
      rw [← Nat.div_add_mod (v % _), hdiv, hmod, Nat.div_add_mod]
    · intro h
      rw [h]
      exact ⟨rfl, rfl⟩

/-- A mask is applied byte by byte. -/
theorem tableBytes_land (k w mask : Nat) :
    tableBytes k (w &&& mask) = List.zipWith (· &&& ·) (tableBytes k w) (tableBytes k mask) := by
  induction k with
  | zero => rfl
  | succ k ih => simp only [tableBytes, List.zipWith_cons_cons, ih, Nat.and_div_two_pow, BitVec.ofNat_and]

/-- A mask finds its match in a word exactly where it does in the word's bytes. -/
theorem land_eq_iff_tableBytes {k w mask value : Nat} (hw : w < 2 ^ (8 * k)) (hv : value < 2 ^ (8 * k)) :
    w &&& mask = value ↔
      List.zipWith (· &&& ·) (tableBytes k w) (tableBytes k mask) = tableBytes k value := by
  rw [← tableBytes_land, tableBytes_eq_iff, Nat.mod_eq_of_lt (Nat.and_le_left.trans_lt hw), Nat.mod_eq_of_lt hv]

/-- A word decodes to a frame exactly where its bytes are the frame's. -/
theorem decodeTableWord_frame_iff {k w : Nat} {i : Instr} (hi : i.isHostOp = false) (hk : (encode i).length = k) :
    decodeTableWord (8 * k) w = some i ↔ tableBytes k w = encode i := by
  have hbytes : tableWordBytes (8 * k) w = tableBytes k w ++ zeroOperands := by
    rw [tableWordBytes, Nat.mul_div_cancel_left k (by decide)]
  have hlen : (tableBytes k w).length = (encode i).length := (tableBytes_length k w).trans hk.symm
  rw [decodeTableWord, hbytes]
  constructor
  · intro h
    split at h
    · rename_i j rest hd
      cases h
      exact List.append_inj_left ((decode_frame_iff hi).mp hd) hlen
    · cases h
  · intro h
    rw [h, decode_encode_frame hi]

/-- Settles O51: a frame by the bytes of its word, a host operation by running the decoder on its op number. -/
theorem spelledOutWordsDecode : Obligations.SpelledOutWordsDecode := by
  have frame : ∀ {k w : Nat} {i : Instr}, i.isHostOp = false → (encode i).length = k →
      tableBytes k w = encode i → decodeTableWord (8 * k) w = some i := fun hi hk =>
    (decodeTableWord_frame_iff hi hk).mpr
  exact ⟨frame (k := 7) rfl rfl (by decide), frame (k := 7) rfl rfl (by decide), frame (k := 7) rfl rfl (by decide),
    frame (k := 9) rfl rfl (by decide), by decide, by decide, by decide⟩

/-! ## The masks of the frame rows -/

/-- The byte of a mask that keeps every bit. -/
theorem land_ff (b : Byte) : b &&& 0xFF#8 = b := BitVec.and_allOnes

/-- The mask of the seven-byte rows fixes the magic and the Command and leaves the other bytes free. -/
theorem sevenByteMask_iff {w value : Nat} {m0 m1 cmd : Byte} (hw : w < 2 ^ 56) (hv : value < 2 ^ 56)
    (hvalue : tableBytes 7 value = [m0, m1, 0, cmd, 0, 0, 0]) :
    w &&& 0xFFFF00FF000000 = value ↔ ∃ id a b ck, tableBytes 7 w = [m0, m1, id, cmd, a, b, ck] := by
  rw [land_eq_iff_tableBytes (k := 7) hw hv, hvalue]
  simp [tableBytes, land_ff]

/-- The mask of the nine-byte row fixes the same bytes. -/
theorem nineByteMask_iff {w value : Nat} {m0 m1 cmd : Byte} (hw : w < 2 ^ 72) (hv : value < 2 ^ 72)
    (hvalue : tableBytes 9 value = [m0, m1, 0, cmd, 0, 0, 0, 0, 0]) :
    w &&& 0xFFFF00FF0000000000 = value ↔
      ∃ id a b c d ck, tableBytes 9 w = [m0, m1, id, cmd, a, b, c, d, ck] := by
  rw [land_eq_iff_tableBytes (k := 9) hw hv, hvalue]
  simp [tableBytes, land_ff]

/-- The halves of a word are any two bytes (R11). -/
theorem exists_halves_iff (p : Byte → Byte → Prop) : (∃ v, p (hi8 v) (lo8 v)) ↔ ∃ h l, p h l :=
  ⟨fun ⟨v, hv⟩ => ⟨_, _, hv⟩, fun ⟨h, l, hp⟩ => ⟨join16 h l, by simpa using hp⟩⟩

theorem reqRead_mask_iff {w : Nat} (hw : w < 2 ^ 56) : w &&& 0xFFFF00FF000000 = 0x49530005000000 ↔
    ∃ id d1 d2 ck, decodeTableWord 56 w = some (.reqRead id d1 d2 ck) := by
  rw [sevenByteMask_iff (m0 := reqMagic0) (m1 := reqMagic1) (cmd := cmdRead) hw (by decide) (by decide)]
  simp only [decodeTableWord_frame_iff (k := 7) (i := .reqRead _ _ _ _) rfl rfl, encode]

theorem reqSet_mask_iff {w : Nat} (hw : w < 2 ^ 56) : w &&& 0xFFFF00FF000000 = 0x49530006000000 ↔
    ∃ id rpm ck, decodeTableWord 56 w = some (.reqSet id rpm ck) := by
  rw [sevenByteMask_iff (m0 := reqMagic0) (m1 := reqMagic1) (cmd := cmdSet) hw (by decide) (by decide)]
  simp only [decodeTableWord_frame_iff (k := 7) (i := .reqSet _ _ _) rfl rfl, encode]
  exact exists_congr fun id => (exists_halves_iff fun h l => ∃ ck, tableBytes 7 w = [_, _, id, _, h, l, ck]).symm

theorem rspAck_mask_iff {w : Nat} (hw : w < 2 ^ 56) : w &&& 0xFFFF00FF000000 = 0x44540001000000 ↔
    ∃ id rpm ck, decodeTableWord 56 w = some (.rspAck id rpm ck) := by
  rw [sevenByteMask_iff (m0 := rspMagic0) (m1 := rspMagic1) (cmd := cmdTargetAck) hw (by decide) (by decide)]
  simp only [decodeTableWord_frame_iff (k := 7) (i := .rspAck _ _ _) rfl rfl, encode]
  exact exists_congr fun id => (exists_halves_iff fun h l => ∃ ck, tableBytes 7 w = [_, _, id, _, h, l, ck]).symm

/-- The alarm word's low byte comes first (R64). -/
theorem rspRead_mask_iff {w : Nat} (hw : w < 2 ^ 72) : w &&& 0xFFFF00FF0000000000 = 0x445400050000000000 ↔
    ∃ id rpm alarm ck, decodeTableWord 72 w = some (.rspRead id rpm alarm ck) := by
  rw [nineByteMask_iff (m0 := rspMagic0) (m1 := rspMagic1) (cmd := cmdRead) hw (by decide) (by decide)]
  simp only [decodeTableWord_frame_iff (k := 9) (i := .rspRead _ _ _ _) rfl rfl, encode]
  constructor
  · rintro ⟨id, h, l, aLo, aHi, ck, hw⟩
    exact ⟨id, join16 h l, join16 aHi aLo, ck, by simpa using hw⟩
  · rintro ⟨id, rpm, alarm, ck, hw⟩
    exact ⟨id, hi8 rpm, lo8 rpm, lo8 alarm, hi8 alarm, ck, hw⟩

/-! ## The conditions on top of the mask -/

/-- The checksum is the sum of the bytes' numbers modulo 256 (R120). -/
theorem toNat_sum8 (f : List Byte) : (sum8 f).toNat = (f.map BitVec.toNat).sum % 256 := by
  induction f with
  | nil => rfl
  | cons b f ih => simp [ih]

/-- A frame's checksum holds where its last byte is the sum of those before it (R121). -/
theorem checksumOk_concat_iff (f : List Byte) (ck : Byte) : checksumOk (f ++ [ck]) = true ↔ ck = sum8 f := by
  simp [checksumOk]

theorem eq_sum8_iff (ck : Byte) (f : List Byte) : ck = sum8 f ↔ ck.toNat = (f.map BitVec.toNat).sum % 256 := by
  rw [← toNat_sum8, BitVec.toNat_inj]

theorem idInRange_iff (id : Byte) : idInRange id = true ↔ 1 ≤ id.toNat ∧ id.toNat ≤ 64 := by
  simp [idInRange]

/-- The conditions that R100 puts on a request window on top of its magic and its Command. -/
def RequestHolds (id cmd d1 d2 ck : Byte) : Prop :=
  checksumOk [reqMagic0, reqMagic1, id, cmd, d1, d2, ck] = true ∧ idInRange id = true

theorem requestHolds_iff (id cmd d1 d2 ck : Byte) : RequestHolds id cmd d1 d2 ck ↔
    ck.toNat = (0x49 + 0x53 + id.toNat + cmd.toNat + d1.toNat + d2.toNat) % 256 ∧
      1 ≤ id.toNat ∧ id.toNat ≤ 64 := by
  have hck := checksumOk_concat_iff [reqMagic0, reqMagic1, id, cmd, d1, d2] ck
  rw [eq_sum8_iff] at hck
  refine and_congr (hck.trans ?_) (idInRange_iff id)
  simp only [List.map_cons, List.map_nil, List.sum_cons, List.sum_nil, Nat.add_zero, ← Nat.add_assoc]
  rfl

/-- A window of the request magic decodes by its Command (R100). -/
theorem decode_requestWindow (id cmd d1 d2 ck : Byte) : decode [reqMagic0, reqMagic1, id, cmd, d1, d2, ck] =
    if cmd = cmdRead then .ok (.reqRead id d1 d2 ck, [])
    else if cmd = cmdSet then .ok (.reqSet id (join16 d1 d2) ck, [])
    else .error (.unknownCommand cmd) := by
  rw [decode_request_magic, decodeRequestFrame, if_neg (not_not.mpr rfl)]

/-- A window of the request magic decodes to a well-formed request where its conditions hold and its Command is one
of the two. -/
theorem decode_requestWindow_wellFormed_iff (id cmd d1 d2 ck : Byte) :
    (∃ i, decode [reqMagic0, reqMagic1, id, cmd, d1, d2, ck] = .ok (i, []) ∧ i.wellFormed = true) ↔
      RequestHolds id cmd d1 d2 ck ∧ (cmd = cmdRead ∨ cmd = cmdSet) := by
  rw [decode_requestWindow]
  split
  · rename_i hread
    simp [hread, Instr.wellFormed, encode, RequestHolds]
  · rename_i hread
    split
    · rename_i hset
      simp [hset, Instr.wellFormed, encode, RequestHolds]
    · rename_i hset
      simp only [reduceCtorEq, false_and, exists_false, hread, hset, or_self, and_false]

/-- `decodeRequest` takes the same windows (R128). -/
theorem decodeRequest_ok_iff (id cmd d1 d2 ck : Byte) :
    (∃ r, decodeRequest [reqMagic0, reqMagic1, id, cmd, d1, d2, ck] = .ok r) ↔
      RequestHolds id cmd d1 d2 ck ∧ (cmd = cmdRead ∨ cmd = cmdSet) := by
  have hck : checksumOk [reqMagic0, reqMagic1, id, cmd, d1, d2, ck] = true ↔
      ck = sum8 [reqMagic0, reqMagic1, id, cmd, d1, d2] := checksumOk_concat_iff [_, _, id, cmd, d1, d2] ck
  rw [RequestHolds, hck]
  fun_cases decodeRequest [reqMagic0, reqMagic1, id, cmd, d1, d2, ck] with
  | case1 hsum => exact iff_of_false nofun fun ⟨⟨h, _⟩, _⟩ => hsum h
  | case2 _ hid => exact iff_of_false nofun fun ⟨⟨_, h⟩, _⟩ => Bool.false_ne_true (hid.symm.trans h)
  | case3 hsum hid hset =>
    exact iff_of_true ⟨_, rfl⟩ ⟨⟨not_not.mp hsum, eq_true_of_ne_false hid⟩, .inr hset⟩
  | case4 hsum hid _ hread =>
    exact iff_of_true ⟨_, rfl⟩ ⟨⟨not_not.mp hsum, eq_true_of_ne_false hid⟩, .inl hread⟩
  | case5 _ _ hset hread => exact iff_of_false nofun fun ⟨_, h⟩ => h.elim hread hset

theorem rspAck_wellFormed_iff (id ck : Byte) (rpm : Word16) : (Instr.rspAck id rpm ck).wellFormed = true ↔
    ck.toNat = (0x44 + 0x54 + id.toNat + 0x01 + rpm.toNat / 256 + rpm.toNat % 256) % 256 := by
  refine (checksumOk_concat_iff [rspMagic0, rspMagic1, id, cmdTargetAck, hi8 rpm, lo8 rpm] ck).trans ?_
  rw [eq_sum8_iff]
  simp only [List.map_cons, List.map_nil, List.sum_cons, List.sum_nil, toNat_hi8, toNat_lo8, Nat.add_zero,
    ← Nat.add_assoc]
  rfl

theorem rspRead_wellFormed_iff (id ck : Byte) (rpm alarm : Word16) :
    (Instr.rspRead id rpm alarm ck).wellFormed = true ↔
      ck.toNat = (0x44 + 0x54 + id.toNat + 0x05 + rpm.toNat / 256 + rpm.toNat % 256 + alarm.toNat % 256 +
        alarm.toNat / 256) % 256 := by
  refine (checksumOk_concat_iff
    [rspMagic0, rspMagic1, id, cmdRead, hi8 rpm, lo8 rpm, lo8 alarm, hi8 alarm] ck).trans ?_
  rw [eq_sum8_iff]
  simp only [List.map_cons, List.map_nil, List.sum_cons, List.sum_nil, toNat_hi8, toNat_lo8, Nat.add_zero,
    ← Nat.add_assoc]
  rfl

/-- Any other Command behind the response magic is rejected (R94). -/
theorem decode_response_unknownCommand {cmd : Byte} (id : Byte) (body : List Byte) (hack : cmd ≠ cmdTargetAck)
    (hread : cmd ≠ cmdRead) :
    decode (rspMagic0 :: rspMagic1 :: id :: cmd :: body) = .error (.unknownCommand cmd) := by
  simp only [decode_response_magic, decodeResponseFrame, ne_eq, not_true_eq_false, if_false, hack, hread]

/-- Settles O52: the mask of each row, byte by byte; the conditions of a request window, and those of a response. -/
theorem masksAndConditionsSelectTheFrames : Obligations.MasksAndConditionsSelectTheFrames := by
  refine ⟨fun w hw => ⟨reqRead_mask_iff hw, reqSet_mask_iff hw, rspAck_mask_iff hw⟩, fun w => rspRead_mask_iff,
    ?_, ?_⟩
  · intro id cmd d1 d2 ck valid
    have hvalid : RequestHolds id cmd d1 d2 ck ↔ valid := requestHolds_iff id cmd d1 d2 ck
    rw [← hvalid]
    exact ⟨decode_requestWindow_wellFormed_iff id cmd d1 d2 ck, decodeRequest_ok_iff id cmd d1 d2 ck⟩
  · intro id cmd ck rpm alarm body
    exact ⟨rspAck_wellFormed_iff id ck rpm, rspRead_wellFormed_iff id ck rpm alarm,
      decode_response_unknownCommand id body⟩

end Sys2Proof.Machine
end

section
/-! SUPPORT. What the host port does not accept (R105), and the verdict on a response frame (R101, R164). -/

namespace Sys2Proof.Machine

/-! ## Refusals of the host port -/

/-- An op number above 20 is not an operation (R105). -/
theorem decode_unknownOperation {op : Byte} (rest : List Byte) (h20 : 20 < op.toNat) (h31 : op.toNat ≤ 31) :
    decode (op :: rest) = .error (.unknownOperation op) := by
  rw [decode_opByte h31, decodeHostOp, if_neg h20.not_ge]

/-- A command that does not decode is refused with the decoder's reason. -/
theorem hostCommand_of_reject {c : List Byte} {why : Reject} (s : State) (hd : decode c = .error why) :
    hostCommand c s = .refused (.notAnOperation why) := by
  rw [hostCommand, hd]

/-- Settles O15: an op number by the decoder, each operation by its precondition. -/
theorem operationsNotAccepted : Obligations.OperationsNotAccepted := by
  refine ⟨?opNumber, ?trySet, ?scan, ?pollStart, ?slaveStart, ?mapEntry⟩
  case opNumber =>
    intro op rest s h21 h31
    rw [onEvent, step_of_inputs rfl]
    exact hostCommand_of_reject _ (decode_unknownOperation rest h21 h31)
  case trySet => exact fun _ _ _ _ _ _ hbusy => if_neg hbusy
  case scan => exact fun _ _ _ _ _ _ hbusy => if_neg hbusy
  case pollStart => exact fun _ hrunning => if_neg hrunning
  case slaveStart =>
    intro p u s hu hrunning
    exact (withSlave_of_some hu _).trans (if_neg hrunning)
  case mapEntry =>
    intro id rpm s hid
    have hout : ¬ idInRange id = true := by
      rw [idInRange_iff]
      omega
    exact ⟨if_neg hout, if_neg hout⟩

/-! ## The verdict on a response frame -/

/-- The high byte of a word, as a number (R11). -/
theorem ofNat_div_256 (v : Word16) : BitVec.ofNat 8 (v.toNat / 256) = hi8 v := by
  rw [← toNat_hi8, BitVec.ofNat_toNat, BitVec.setWidth_eq]

/-- The low byte of a word, as a number (R11). -/
theorem ofNat_mod_256 (v : Word16) : BitVec.ofNat 8 (v.toNat % 256) = lo8 v := by
  rw [← toNat_lo8, BitVec.ofNat_toNat, BitVec.setWidth_eq]

/-- A TargetAck window is parsed where its checksum holds (R101, R127). -/
theorem decodeResponse_rspAck (id ck : Byte) (rpm : Word16) :
    decodeResponse (encode (.rspAck id rpm ck)) ackLen =
      if (Instr.rspAck id rpm ck).wellFormed = true then .ok (.ack id rpm) else .error .checksumMismatch := by
  have hsum : (Instr.rspAck id rpm ck).wellFormed = true ↔
      ck = sum8 [rspMagic0, rspMagic1, id, cmdTargetAck, hi8 rpm, lo8 rpm] :=
    checksumOk_concat_iff [_, _, id, _, _, _] ck
  simp [hsum, decodeResponse, encode, byteAt, responseLength, ackLen]

/-- A Read response window is parsed where its checksum holds (R101, R127). -/
theorem decodeResponse_rspRead (id ck : Byte) (rpm alarm : Word16) :
    decodeResponse (encode (.rspRead id rpm alarm ck)) readRspLen =
      if (Instr.rspRead id rpm alarm ck).wellFormed = true then .ok (.readRsp id rpm alarm)
      else .error .checksumMismatch := by
  have hsum : (Instr.rspRead id rpm alarm ck).wellFormed = true ↔
      ck = sum8 [rspMagic0, rspMagic1, id, cmdRead, hi8 rpm, lo8 rpm, lo8 alarm, hi8 alarm] :=
    checksumOk_concat_iff [_, _, id, _, _, _, _, _] ck
  simp [hsum, decodeResponse, encode, byteAt, responseLength, readRspLen]

/-- A window whose decoding turns on its checksum is judged by it (R164). -/
theorem judgeResponse_of_checksum {w : List Byte} {p : ParsedResponse} {c : Prop} [Decidable c]
    (h : decodeResponse w w.length = if c then .ok p else .error .checksumMismatch) :
    judgeResponse w = if c then .ok p w else .bad .checksumMismatch w := by
  by_cases hc : c
  · rw [judgeResponse, h, if_pos hc, if_pos hc]
  · rw [judgeResponse, h, if_neg hc, if_neg hc]
    rfl

/-- Settles O29: the instruction delivers the verdict on its frame, and the frame's checksum decides it. -/
theorem responseFramesAreJudged : Obligations.ResponseFramesAreJudged := by
  intro id ck rpm alarm s hi lo aHi aLo ackFrame readFrame
  have hack : ackFrame = encode (.rspAck id rpm ck) := by
    simp only [ackFrame, hi, lo, ofNat_div_256, ofNat_mod_256, encode]
  have hread : readFrame = encode (.rspRead id rpm alarm ck) := by
    simp only [readFrame, hi, lo, aHi, aLo, ofNat_div_256, ofNat_mod_256, encode]
  rw [hack, hread, ← if_congr (rspAck_wellFormed_iff id ck rpm) rfl rfl,
    ← if_congr (rspRead_wellFormed_iff id ck rpm alarm) rfl rfl,
    ← judgeResponse_of_checksum (decodeResponse_rspAck id ck rpm),
    ← judgeResponse_of_checksum (decodeResponse_rspRead id ck rpm alarm)]
  exact ⟨rfl, rfl⟩

end Sys2Proof.Machine
end

section
/-! SUPPORT. FrameCodec (R120 to R130): the checksum as a number, the frames byte by byte, header seeking, and what the
two decoders make of a window. -/

namespace Sys2Proof.Machine

/-! ## Numbers and bytes -/

/-- The checksum is the byte of the bytes' sum (R120). -/
theorem sum8_eq_ofNat (f : List Byte) : sum8 f = BitVec.ofNat 8 (f.map BitVec.toNat).sum :=
  BitVec.eq_of_toNat_eq ((toNat_sum8 f).trans (BitVec.toNat_ofNat _ 8).symm)

/-- `{hi, lo}` as a number (R11). -/
theorem join16_eq_ofNat (h l : Byte) : join16 h l = BitVec.ofNat 16 (h.toNat * 256 + l.toNat) := by
  rw [← toNat_join16, BitVec.ofNat_toNat, BitVec.setWidth_eq]

/-- Clamping is the maximum with the lower bound, then the minimum with the upper (R11). -/
theorem clamp_eq_min_max (v : Nat) {lo hi : Nat} (h : lo ≤ hi) : clamp v lo hi = min (max v lo) hi := by
  fun_cases clamp v lo hi <;> omega

theorem toNat_clampId (id : Byte) : (clampId id).toNat = clamp id.toNat idMin idMax := by
  have hmax := (clamp_bounds id.toNat (lo := idMin) (hi := idMax) (by decide)).2
  exact Nat.mod_eq_of_lt (hmax.trans_lt (by decide))

/-- A clamped id is a slave id (R95, R122). -/
theorem idInRange_clampId (id : Byte) : idInRange (clampId id) = true := by
  rw [idInRange_iff, toNat_clampId]
  exact clamp_bounds id.toNat (by decide)

/-! ## The frames -/

theorem checksumOk_withChecksum (p : List Byte) : checksumOk (withChecksum p) = true :=
  (checksumOk_concat_iff p (sum8 p)).mpr rfl

/-- A frame with its checksum byte as a number (R99, R120). -/
theorem withChecksum_eq_ofNat (p : List Byte) :
    withChecksum p = p ++ [BitVec.ofNat 8 (p.map BitVec.toNat).sum] := by
  rw [withChecksum, sum8_eq_ofNat]

/-- ENCODE_REQUEST's bytes (R122). -/
theorem requestFrame_eq (id command data1 data2 : Byte) : requestFrame id command data1 data2 =
    [0x49, 0x53, BitVec.ofNat 8 (min (max id.toNat 1) 64), command, data1, data2,
      BitVec.ofNat 8 (0x49 + 0x53 + min (max id.toNat 1) 64 + command.toNat + data1.toNat + data2.toNat)] := by
  have hclamp : clamp id.toNat idMin idMax = min (max id.toNat 1) 64 := clamp_eq_min_max _ (by decide)
  have hbyte : BitVec.ofNat 8 (min (max id.toNat 1) 64) = clampId id := congrArg (BitVec.ofNat 8) hclamp.symm
  rw [requestFrame, withChecksum_eq_ofNat]
  simp [hbyte, toNat_clampId, hclamp, ← Nat.add_assoc]

/-- ENCODE_TARGETACK's bytes (R124): the RPM high byte first. -/
theorem targetAckFrame_eq (id : Byte) (rpm : Word16) : targetAckFrame id rpm =
    [0x44, 0x54, id, 0x01, BitVec.ofNat 8 (rpm.toNat / 256), BitVec.ofNat 8 (rpm.toNat % 256),
      BitVec.ofNat 8 (0x44 + 0x54 + id.toNat + 0x01 + rpm.toNat / 256 + rpm.toNat % 256)] := by
  rw [targetAckFrame, withChecksum_eq_ofNat]
  simp [ofNat_div_256, ofNat_mod_256, toNat_hi8, toNat_lo8, ← Nat.add_assoc]

/-- ENCODE_READRSP's bytes (R125): the RPM high byte first, the alarm word low byte first. -/
theorem readRspFrame_eq (id : Byte) (rpm alarm : Word16) : readRspFrame id rpm alarm =
    [0x44, 0x54, id, 0x05, BitVec.ofNat 8 (rpm.toNat / 256), BitVec.ofNat 8 (rpm.toNat % 256),
      BitVec.ofNat 8 (alarm.toNat % 256), BitVec.ofNat 8 (alarm.toNat / 256),
      BitVec.ofNat 8 (0x44 + 0x54 + id.toNat + 0x05 + rpm.toNat / 256 + rpm.toNat % 256 + alarm.toNat % 256 +
        alarm.toNat / 256)] := by
  rw [readRspFrame, withChecksum_eq_ofNat]
  simp [ofNat_div_256, ofNat_mod_256, toNat_hi8, toNat_lo8, ← Nat.add_assoc]

theorem exec_encodeRequest (id command data1 data2 : Byte) (s : State) :
    exec (.encodeRequest id command data1 data2) s =
      .next (returnToHost (.frame (requestFrame id command data1 data2)) s) := rfl

theorem exec_encodeTargetAck (id : Byte) (rpm : Word16) (s : State) :
    exec (.encodeTargetAck id rpm) s = .next (returnToHost (.frame (targetAckFrame id rpm)) s) := rfl

theorem exec_encodeReadRsp (id : Byte) (rpm alarm : Word16) (s : State) :
    exec (.encodeReadRsp id rpm alarm) s = .next (returnToHost (.frame (readRspFrame id rpm alarm)) s) := rfl

/-- Settles O3: each instruction returns its builder's frame, whose bytes are known one by one. -/
theorem encodersBuildFramesByteExact : Obligations.EncodersBuildFramesByteExact := by
  refine ⟨fun id command data1 data2 s => ?request, fun id rpm alarm s => ⟨?targetAck, ?readRsp⟩⟩
  case request =>
    rw [exec_encodeRequest, requestFrame_eq]
    rfl
  case targetAck =>
    rw [exec_encodeTargetAck, targetAckFrame_eq]
    rfl
  case readRsp =>
    rw [exec_encodeReadRsp, readRspFrame_eq]
    rfl

/-! ## Round trips (R130) -/

theorem decodeResponse_targetAckFrame (id : Byte) (rpm : Word16) :
    decodeResponse (targetAckFrame id rpm) ackLen = .ok (.ack id rpm) :=
  (decodeResponse_rspAck id _ rpm).trans (if_pos (checksumOk_withChecksum [_, _, id, _, _, _]))

theorem decodeResponse_readRspFrame (id : Byte) (rpm alarm : Word16) :
    decodeResponse (readRspFrame id rpm alarm) readRspLen = .ok (.readRsp id rpm alarm) :=
  (decodeResponse_rspRead id _ rpm alarm).trans (if_pos (checksumOk_withChecksum [_, _, id, _, _, _, _, _]))

/-- A built request passes the checksum test and the id test: its Command alone decides (R122, R128). -/
theorem decodeRequest_requestFrame (id command data1 data2 : Byte) :
    decodeRequest (requestFrame id command data1 data2) =
      if command = cmdSet then .ok (.set (clampId id) (join16 data1 data2))
      else if command = cmdRead then .ok (.read (clampId id))
      else .error .unknownCommand := by
  have hid : byteAt (requestFrame id command data1 data2) 2 = clampId id := rfl
  have hsum : byteAt (requestFrame id command data1 data2) 6 =
      sum8 ((requestFrame id command data1 data2).take 6) := rfl
  rw [decodeRequest, if_neg (not_not.mpr hsum), hid, idInRange_clampId, if_neg Bool.noConfusion]
  rfl

theorem decodeRequest_setRequest (id : Byte) (rpm : Word16) :
    decodeRequest (setRequest id rpm) = .ok (.set (clampId id) rpm) := by
  rw [setRequest, decodeRequest_requestFrame, if_pos rfl, join16_hi8_lo8]

theorem decodeRequest_readRequest (id : Byte) : decodeRequest (readRequest id) = .ok (.read (clampId id)) := by
  rw [readRequest, decodeRequest_requestFrame, if_neg (by decide), if_pos rfl]

/-- Settles O1: the checksum by its number, the round trips by what the decoders make of a built frame. -/
theorem checksumAndCodecRoundTrips : Obligations.ChecksumAndCodecRoundTrips :=
  ⟨⟨rfl, fun f last => ⟨toNat_sum8 f, (checksumOk_concat_iff f last).trans (eq_sum8_iff last f)⟩⟩,
    fun _ _ _ _ => checksumOk_withChecksum _, fun _ _ => checksumOk_withChecksum _,
    fun _ _ _ => checksumOk_withChecksum _, decodeResponse_targetAckFrame, decodeResponse_readRspFrame,
    decodeRequest_setRequest, decodeRequest_readRequest⟩

/-! ## Header seeking (R129) -/

/-- A suffix that could begin with the magic is not dropped by seeking. -/
theorem suffix_resync_of_couldBegin {m0 m1 : Byte} {acc t : List Byte} (hsuffix : t <:+ acc)
    (ht : CouldBegin m0 m1 t) : t <:+ resync m0 m1 acc := by
  fun_induction resync m0 m1 acc with
  | case1 | case2 | case4 => exact hsuffix
  | case3 a ha =>
    obtain rfl | htail := List.suffix_cons_iff.mp hsuffix
    · simp [CouldBegin, ha] at ht
    · exact htail
  | case5 a b rest hab ih =>
    obtain rfl | htail := List.suffix_cons_iff.mp hsuffix
    · obtain hnil | hone | ⟨tail, hmagic⟩ := ht
      · cases hnil
      · cases hone
      · cases hmagic
        exact absurd ⟨rfl, rfl⟩ hab
    · exact ih htail

/-- Settles O2: what seeking leaves is a suffix and could begin; every other such suffix is a suffix of it. -/
theorem resyncKeepsTheLongestCandidate : Obligations.ResyncKeepsTheLongestCandidate := fun m0 m1 acc =>
  ⟨resync_suffix m0 m1 acc, resync_front m0 m1 acc, fun _ hsuffix ht =>
    (suffix_resync_of_couldBegin hsuffix ht).length_le⟩

/-! ## DECODE_RESPONSE's tests (R127) -/

/-- The tests behind the header with each Command's length written out. -/
theorem decodeResponse_eq_ite (buffer : List Byte) (n : Nat) : decodeResponse buffer n =
    if n < 2 then .error .truncated
    else if byteAt buffer 0 ≠ rspMagic0 ∨ byteAt buffer 1 ≠ rspMagic1 then .error .badHeader
    else if n < 4 then .error .truncated
    else if byteAt buffer 3 = cmdTargetAck then
      if n < ackLen then .error .truncated
      else if byteAt buffer 6 ≠ sum8 (buffer.take 6) then .error .checksumMismatch
      else .ok (.ack (byteAt buffer 2) (join16 (byteAt buffer 4) (byteAt buffer 5)))
    else if byteAt buffer 3 = cmdRead then
      if n < readRspLen then .error .truncated
      else if byteAt buffer 8 ≠ sum8 (buffer.take 8) then .error .checksumMismatch
      else .ok (.readRsp (byteAt buffer 2) (join16 (byteAt buffer 4) (byteAt buffer 5))
        (join16 (byteAt buffer 7) (byteAt buffer 6)))
    else .error .unknownCommand := by
  unfold decodeResponse responseLength
  by_cases hack : byteAt buffer 3 = cmdTargetAck
  · simp only [if_pos hack]
    rfl
  · by_cases hread : byteAt buffer 3 = cmdRead
    · simp only [if_neg hack, if_pos hread]
      rfl
    · simp only [if_neg hack, if_neg hread]

theorem exec_decodeResponse_of_le {buffer : List Byte} {n : Nat} (h : n ≤ buffer.length) (s : State) :
    exec (.decodeResponse buffer n) s = .next (returnToHost (decodeResult (decodeResponse buffer n)) s) :=
  if_pos h

theorem exec_decodeResponse_of_lt {buffer : List Byte} {n : Nat} (h : buffer.length < n) (s : State) :
    exec (.decodeResponse buffer n) s = .next (countFree (returnToHost
      (decodeResult (decodeResponse (padBuffer buffer n s.freeCount) n)) s)) :=
  if_neg h.not_ge

/-- Settles O4: the decoder's tests in their order, its checksum test and its words as numbers. -/
theorem decodeResponseTestsInOrder : Obligations.DecodeResponseTestsInOrder := by
  intro buffer n s hn b sumFails rpm alarm r
  have hresult : decodeResult (decodeResponse buffer n) = r := by
    rw [decodeResponse_eq_ite]
    simp only [apply_ite decodeResult, ne_eq, eq_sum8_iff, join16_eq_ofNat]
    rfl
  rw [exec_decodeResponse_of_le hn, hresult]
  rfl

end Sys2Proof.Machine
end

section
/-! SUPPORT. The model's choices (R104, R127, R255, R282, R293): what stands for a result the spec does not give. -/

namespace Sys2Proof.Machine

/-- DECODE_RESPONSE's value is a parsed response or a decode error (R104). -/
theorem decodeResult_cases (r : Except DecodeError ParsedResponse) :
    (∃ p, decodeResult r = .parsed p) ∨ ∃ e, decodeResult r = .decodeError e := by
  cases r with
  | ok p => exact .inl ⟨p, rfl⟩
  | error e => exact .inr ⟨e, rfl⟩

theorem reduceFraction_coprime (num : Nat) {den : Nat} (h : 0 < den) :
    Nat.Coprime (reduceFraction num den).num (reduceFraction num den).den :=
  Nat.coprime_div_gcd_div_gcd (Nat.gcd_pos_of_pos_right num h)

/-- A port that does not exist stops what acts on its unit (R293). -/
theorem withSlave_of_length_le {p : Nat} {s : State} (h : s.slaves.length ≤ p) (f : Slave → Result) :
    withSlave p s f = .fault (.noSuchPort p) := by
  rw [withSlave, List.getElem?_eq_none h]

theorem accFull_iff {params : Params} {n : Nat} (u : Slave) (h : params.accDepth = some n) :
    accFull params u = true ↔ reqLen ≤ u.acc.length ∧ n ≤ u.acc.length := by
  simp [accFull, h]

/-- A running listener whose accumulator is full takes no byte (R282). -/
theorem slaveRx_of_full {p : Nat} {u : Slave} {s : State} (b : Byte) (hu : s.slaves[p]? = some u)
    (hrunning : u.state ≠ .stopped) (hfull : accFull s.params u = true) :
    slaveRx p b s = .refused (.accumulatorFull p) := by
  rw [slaveRx, withSlave_of_some hu, if_neg hrunning, if_pos hfull]

/-- A frame handed to the host port has no step (R9, R104). -/
theorem hostCommand_of_frame {c left : List Byte} {i : Instr} (s : State) (hd : decode c = .ok (i, left))
    (hi : i.isHostOp = false) : hostCommand c s = .refused .frameAtHostPort := by
  simp [hostCommand, hd, hi]

/-- Settles O16: the read past the buffer, ESTIMATE's fraction, the absent port, the full accumulator, the frame at the
host port. -/
theorem choicesBesideTheRules : Obligations.ChoicesBesideTheRules := by
  refine ⟨?pastBuffer, ?estimate, ?absentPort, ?fullAccumulator, ?frameAtHost⟩
  case pastBuffer => exact fun _ _ s hn => ⟨_, decodeResult_cases _, exec_decodeResponse_of_lt hn s⟩
  case estimate =>
    intro baud slaveCount frameBytes p s
    refine ⟨fun hbaud hden => ?_, fun hden => if_pos (.inr hden)⟩
    exact ⟨estimateMs baud slaveCount frameBytes p, if_neg (not_or.mpr ⟨hbaud.ne', hden.ne'⟩),
      reduceFraction_coprime _ (Nat.mul_pos hbaud hden)⟩
  case absentPort =>
    intro p b s hp
    simp only [onEvent_eq]
    exact ⟨withSlave_of_length_le hp _, withSlave_of_length_le hp _, withSlave_of_length_le hp _,
      withSlave_of_length_le hp _, withSlave_of_length_le hp _⟩
  case fullAccumulator =>
    intro p n b u s hu hrunning hdepth hn h7
    rw [onEvent_eq]
    exact slaveRx_of_full b hu hrunning ((accFull_iff u hdepth).mpr ⟨h7, hn⟩)
  case frameAtHost =>
    intro command left i s hd hi
    rw [onEvent_eq]
    exact hostCommand_of_frame s hd hi

end Sys2Proof.Machine
end

section
/-! SUPPORT. AlarmDecoder (R150 to R154): what its four instructions return, the alarm word put together again from its
bit fields, and the set conditions in the canonical order. -/

namespace Sys2Proof.Machine

/-! ## The four instructions -/

theorem exec_alarmDecode (word : Word16) (s : State) :
    exec (.alarmDecode word) s = .next (returnToHost (.alarmFlags (alarmFlagsOf word)) s) := rfl

theorem exec_alarmDescribe (flags : Word16) (s : State) :
    exec (.alarmDescribe flags) s = .next (returnToHost (.conditions (describeAlarm flags)) s) := rfl

theorem exec_alarmHasFault (flags : Word16) (s : State) :
    exec (.alarmHasFault flags) s = .next (returnToHost (.bit (alarmHasFault flags)) s) := rfl

theorem exec_alarmIsRemote (flags : Word16) (s : State) :
    exec (.alarmIsRemote flags) s = .next (returnToHost (.bit (alarmIsRemote flags)) s) := rfl

/-! ## The record and the word (R151) -/

/-- A bit is the field of width 1 at its position. -/
theorem ofBool_getLsbD_eq_extractLsb' {w : Nat} (x : BitVec w) (i : Nat) :
    BitVec.ofBool (x.getLsbD i) = x.extractLsb' i 1 := by
  ext j hj
  obtain rfl : j = 0 := Nat.lt_one_iff.mp hj
  simp

/-- The record's reserved field is the word's bits 4 to 11. -/
theorem alarmFlagsOf_reserved_getLsbD (word : Word16) {i : Nat} (hi : i < 8) :
    (alarmFlagsOf word).reserved.getLsbD i = word.getLsbD (4 + i) := by
  simp [alarmFlagsOf, hi]

/-- The record gives its word back: its nine fields are adjacent, and join to the field of width 16 at bit 0. -/
theorem alarmWordOf_alarmFlagsOf (word : Word16) : alarmWordOf (alarmFlagsOf word) = word := by
  simp only [alarmWordOf, alarmFlagsOf, ofBool_getLsbD_eq_extractLsb',
    BitVec.extractLsb'_append_extractLsb'_eq_extractLsb']
  exact BitVec.extractLsb'_eq_self

/-- Settles O5: the returned record's fields are the word's bits, and they join to the word. -/
theorem alarmDecodeKeepsEveryBit : Obligations.AlarmDecodeKeepsEveryBit := fun word s =>
  ⟨alarmFlagsOf word, exec_alarmDecode word s, rfl, rfl, rfl, rfl,
    fun _ hi => alarmFlagsOf_reserved_getLsbD word hi, rfl, rfl, rfl, rfl, alarmWordOf_alarmFlagsOf word⟩

/-! ## The set conditions (R152) -/

theorem conditionOrder_ascending : conditionOrder.Pairwise (· < ·) := by decide

theorem describeAlarm_ascending (flags : Word16) : (describeAlarm flags).Pairwise (· < ·) :=
  conditionOrder_ascending.filter _

theorem mem_describeAlarm (flags : Word16) (b : Nat) :
    b ∈ describeAlarm flags ↔ b ∈ conditionOrder ∧ flags.getLsbD b = true :=
  List.mem_filter

/-- Settles O6: the list is the canonical order, which ascends, with only the set bits kept. -/
theorem alarmDescribeListsSetConditions : Obligations.AlarmDescribeListsSetConditions := fun flags s =>
  ⟨describeAlarm flags, exec_alarmDescribe flags s, describeAlarm_ascending flags, mem_describeAlarm flags⟩

/-! ## The fault and remote tests (R153, R154) -/

/-- Settles O7: `FAULT_MASK` is 0x700F, and the mode bit is bit 15. -/
theorem alarmFaultAndRemoteBits : Obligations.AlarmFaultAndRemoteBits := fun flags s =>
  ⟨exec_alarmHasFault flags s, exec_alarmIsRemote flags s⟩

end Sys2Proof.Machine
end

section
/-! SUPPORT. Transactions (R168 to R175): the moves that a transaction of the master makes, which events make which of
them, and the invariants that every move keeps. -/

namespace Sys2Proof.Machine

/-! ## A unit in its transaction -/

@[simp] theorem inTransaction_poll_iff {s : State} :
    InTransaction s .poll ↔ s.poll.state = .transmitting ∨ s.poll.state = .awaitingResponse := by
  simp [InTransaction, inTransmit, inAwait]

@[simp] theorem inTransaction_sc_iff {s : State} :
    InTransaction s .sc ↔ s.sc.state = .transmit ∨ s.sc.state = .await := by
  simp [InTransaction, inTransmit, inAwait]

@[simp] theorem inTransaction_scan_iff {s : State} :
    InTransaction s .scan ↔ s.scan.state = .transmit ∨ s.scan.state = .await := by
  simp [InTransaction, inTransmit, inAwait]

/-- The bytes received are for a unit that holds the lock (R29). -/
theorem lock_of_awaiting {s : State} {u : MasterUnit} (h : awaiting s = some u) : s.lock = .held u := by
  unfold awaiting at h
  split at h
  · cases h
  · rename_i v hv
    split at h <;> cases h
    exact hv

/-- With the lock free no await window is open (R29). -/
theorem rxOpen_of_free {s : State} (h : s.lock = .free) : rxOpen s = false := by
  simp [rxOpen, awaiting, h]

theorem PollStatesSound.congr {s t : State} (h : PollStatesSound s) (hp : t.poll = s.poll) : PollStatesSound t := by
  unfold PollStatesSound
  rw [hp]
  exact h

/-! ## The other units -/

/-- The registers of every master unit but U are the same. -/
structure OthersKept (u : MasterUnit) (s t : State) : Prop where
  poll : u ≠ .poll → t.poll = s.poll
  sc : u ≠ .sc → t.sc = s.sc
  scan : u ≠ .scan → t.scan = s.scan

section
variable {u v : MasterUnit} {s t : State}

theorem OthersKept.of_poll (hsc : t.sc = s.sc) (hscan : t.scan = s.scan) : OthersKept .poll s t :=
  ⟨(absurd rfl ·), fun _ => hsc, fun _ => hscan⟩

theorem OthersKept.of_sc (hpoll : t.poll = s.poll) (hscan : t.scan = s.scan) : OthersKept .sc s t :=
  ⟨fun _ => hpoll, (absurd rfl ·), fun _ => hscan⟩

theorem OthersKept.of_scan (hpoll : t.poll = s.poll) (hsc : t.sc = s.sc) : OthersKept .scan s t :=
  ⟨fun _ => hpoll, fun _ => hsc, (absurd rfl ·)⟩

theorem OthersKept.transmit (h : OthersKept u s t) (hv : v ≠ u) : inTransmit t v = inTransmit s v := by
  cases v
  case poll => rw [inTransmit, inTransmit, h.poll hv.symm]
  case sc => rw [inTransmit, inTransmit, h.sc hv.symm]
  case scan => rw [inTransmit, inTransmit, h.scan hv.symm]

theorem OthersKept.await (h : OthersKept u s t) (hv : v ≠ u) : inAwait t v = inAwait s v := by
  cases v
  case poll => rw [inAwait, inAwait, h.poll hv.symm]
  case sc => rw [inAwait, inAwait, h.sc hv.symm]
  case scan => rw [inAwait, inAwait, h.scan hv.symm]

theorem OthersKept.inTransaction_iff (h : OthersKept u s t) (hv : v ≠ u) : InTransaction t v ↔ InTransaction s v := by
  rw [InTransaction, InTransaction, h.transmit hv, h.await hv]

/-- SC or SCAN, where it is one of the others, waits for the lock exactly if it did. -/
theorem OthersKept.waits (h : OthersKept u s t) (hv : v ≠ u) (hp : v ≠ .poll) :
    waitsForLock t v = waitsForLock s v := by
  cases v
  case poll => exact absurd rfl hp
  case sc => rw [waitsForLock, waitsForLock, h.sc hv.symm]
  case scan => rw [waitsForLock, waitsForLock, h.scan hv.symm]

end

/-! ## Steps outside the transaction -/

/-- No transaction begins, goes on or ends: the lock, both buffers and the units' transmit and await states are the
same, and SC or SCAN still waits for the lock if it did. -/
structure TransactionKept (s t : State) : Prop where
  lock : t.lock = s.lock
  mTxq : t.mTxq = s.mTxq
  mAcc : t.mAcc = s.mAcc
  transmit : ∀ u, inTransmit t u = inTransmit s u
  await : ∀ u, inAwait t u = inAwait s u
  waits : ∀ u, u ≠ .poll → waitsForLock s u = true → waitsForLock t u = true
  sound : PollStatesSound s → PollStatesSound t

section
variable {s t : State} (hlock : t.lock = s.lock) (hq : t.mTxq = s.mTxq) (ha : t.mAcc = s.mAcc)
include hlock hq ha

/-- The units' states are the same. -/
theorem TransactionKept.of_states (hpoll : t.poll.state = s.poll.state) (hcancel : t.poll.cancelReq = s.poll.cancelReq)
    (hsc : t.sc.state = s.sc.state) (hscan : t.scan.state = s.scan.state) : TransactionKept s t := by
  refine ⟨hlock, hq, ha, ?transmit, ?await, ?waits, ?sound⟩
  case waits => intro u hu; cases u <;> simp_all [waitsForLock]
  case sound => simp [PollStatesSound, hpoll, hcancel]
  all_goals intro u; cases u <;> simp [inTransmit, inAwait, hpoll, hsc, hscan]

theorem TransactionKept.of_units (hpoll : t.poll = s.poll) (hsc : t.sc = s.sc) (hscan : t.scan = s.scan) :
    TransactionKept s t :=
  .of_states hlock hq ha (by rw [hpoll]) (by rw [hpoll]) (by rw [hsc]) (by rw [hscan])

/-- One unit moves outside its transaction, where it is no unit that waits for the lock to begin one. -/
theorem TransactionKept.of_unit {u : MasterUnit} (ho : OthersKept u s t) (hs : ¬ InTransaction s u)
    (ht : ¬ InTransaction t u) (hw : u ≠ .poll → waitsForLock s u = false)
    (hsound : PollStatesSound s → PollStatesSound t) : TransactionKept s t := by
  simp only [InTransaction, not_or, Bool.not_eq_true] at hs ht
  refine ⟨hlock, hq, ha, fun v => ?transmit, fun v => ?await, fun v hp hv => ?waits, hsound⟩
  all_goals rcases eq_or_ne v u with rfl | hvu
  · rw [hs.1, ht.1]
  · exact ho.transmit hvu
  · rw [hs.2, ht.2]
  · exact ho.await hvu
  · exact absurd (hv.symm.trans (hw hp)) Bool.true_eq_false.mp
  · exact (ho.waits hvu hp).trans hv

theorem TransactionKept.of_poll (hs : ¬ InTransaction s .poll) (ht : ¬ InTransaction t .poll)
    (hsound : PollStatesSound s → PollStatesSound t) (hsc : t.sc = s.sc) (hscan : t.scan = s.scan) :
    TransactionKept s t :=
  .of_unit hlock hq ha (.of_poll hsc hscan) hs ht (absurd rfl ·) hsound

theorem TransactionKept.of_sc (hs : ¬ InTransaction s .sc) (ht : ¬ InTransaction t .sc) (hw : s.sc.state ≠ .lockWait)
    (hpoll : t.poll = s.poll) (hscan : t.scan = s.scan) : TransactionKept s t :=
  .of_unit hlock hq ha (.of_sc hpoll hscan) hs ht (fun _ => decide_eq_false hw) fun h => h.congr hpoll

theorem TransactionKept.of_scan (hs : ¬ InTransaction s .scan) (ht : ¬ InTransaction t .scan)
    (hw : s.scan.state ≠ .lockWait) (hpoll : t.poll = s.poll) (hsc : t.sc = s.sc) : TransactionKept s t :=
  .of_unit hlock hq ha (.of_scan hpoll hsc) hs ht (fun _ => decide_eq_false hw) fun h => h.congr hpoll

end

theorem TransactionKept.refl (s : State) : TransactionKept s s := .of_units rfl rfl rfl rfl rfl rfl

theorem SameMaster.transactionKept {s t : State} (h : SameMaster s t) : TransactionKept s t :=
  .of_units h.lock h.mTxq h.mAcc h.poll h.sc h.scan

theorem dispatchResponse_transactionKept (p : ParsedResponse) (s : State) :
    TransactionKept s (dispatchResponse p s) := by
  refine .of_units ?_ ?_ ?_ ?_ (dispatchResponse_sc p s) (dispatchResponse_scan p s) <;>
    cases p <;> simp [dispatchResponse]

theorem countElapsed_transactionKept (s : State) : TransactionKept s (countElapsed s) := by
  unfold countElapsed
  split
  · exact .of_units rfl rfl rfl rfl rfl rfl
  · exact .refl s

/-! ## The end of a transaction -/

/-- U's transaction has ended (R173): the lock is free, both buffers are empty, U has left its transmit and await
states, and the other units' registers are the same. -/
structure TransactionEnded (u : MasterUnit) (s t : State) : Prop where
  lock : t.lock = .free
  mTxq : t.mTxq = []
  mAcc : t.mAcc = []
  out : ¬ InTransaction t u
  sound : u = .poll → PollStatesSound t
  others : OthersKept u s t

/-- After `enter_sleep` POLL is stopped, idle or asleep, and no cancel request is pending (R249). -/
theorem enterSleep_settled (d : Word16) (s : State) :
    ¬ InTransaction (enterSleep d s) .poll ∧ PollStatesSound (enterSleep d s) := by
  unfold enterSleep
  split
  · simp [PollStatesSound]
  · rename_i hc
    by_cases hd : d = 0#16 <;> simp [PollStatesSound, hc, hd]

theorem scAttemptFailed_out (s : State) : ¬ InTransaction (scAttemptFailed s) .sc := by
  unfold scAttemptFailed
  dsimp only
  split
  · simp
  · split <;> simp

theorem nextId_out (s : State) : ¬ InTransaction (nextId s) .scan := by
  unfold nextId
  split
  · simp [finishScan]
  · dsimp only
    split <;> simp [leaveInterDelay]

theorem scanAttemptFailed_out (s : State) : ¬ InTransaction (scanAttemptFailed s) .scan := by
  unfold scanAttemptFailed
  dsimp only
  split
  · exact nextId_out _
  · split <;> simp

section
variable {s m : State} {r : List Byte} {b c : Bool}

/-- POLL's transaction ends and its pause begins (R247, R248, R250). -/
theorem enterSleep_ended (d : Word16) (hsc : m.sc = s.sc) (hscan : m.scan = s.scan) :
    TransactionEnded .poll s (enterSleep d (endTxn .poll r b c m)) := by
  obtain ⟨hout, hsound⟩ := enterSleep_settled d (endTxn .poll r b c m)
  exact ⟨by simp, by simp, by simp, hout, fun _ => hsound, .of_poll (by simp [hsc]) (by simp [hscan])⟩

/-- SC's transaction ends and its attempt has failed (R216, R218). -/
theorem scAttemptFailed_ended (hpoll : m.poll = s.poll) (hscan : m.scan = s.scan) :
    TransactionEnded .sc s (scAttemptFailed (endTxn .sc r b c m)) :=
  ⟨by simp, by simp, by simp, scAttemptFailed_out _, nofun, .of_sc (by simp [hpoll]) (by simp [hscan])⟩

/-- SCAN's transaction ends and its attempt has failed (R195, R197). -/
theorem scanAttemptFailed_ended (hpoll : m.poll = s.poll) (hsc : m.sc = s.sc) :
    TransactionEnded .scan s (scanAttemptFailed (endTxn .scan r b c m)) :=
  ⟨by simp, by simp, by simp, scanAttemptFailed_out _, nofun, .of_scan (by simp [hpoll]) (by simp [hsc])⟩

/-- SCAN's transaction ends and the next id's turn comes (R194). -/
theorem nextId_ended (hpoll : m.poll = s.poll) (hsc : m.sc = s.sc) :
    TransactionEnded .scan s (nextId (endTxn .scan r b c m)) :=
  ⟨by simp, by simp, by simp, nextId_out _, nofun, .of_scan (by simp [hpoll]) (by simp [hsc])⟩

end

theorem deadlineTail_ended (u : MasterUnit) {s m : State} (hpoll : m.poll = s.poll) (hsc : m.sc = s.sc)
    (hscan : m.scan = s.scan) : TransactionEnded u s (deadlineTail u m) := by
  cases u
  case poll => exact enterSleep_ended _ hsc hscan
  case sc => exact scAttemptFailed_ended hpoll hscan
  case scan => exact scanAttemptFailed_ended hpoll hsc

/-- A deadline ends U's transaction (R166). -/
theorem deadline_ended (u : MasterUnit) (s : State) : TransactionEnded u s (deadline u s) := by
  unfold deadline
  dsimp only
  split <;> exact deadlineTail_ended u rfl rfl rfl

/-- A transport fault ends the owner's transaction (R174). -/
theorem masterFault_ended {u : MasterUnit} {s : State} (h : s.lock = .held u) :
    TransactionEnded u s (masterFault s) := by
  unfold masterFault
  rw [h]
  cases u
  case poll => exact enterSleep_ended _ rfl rfl
  case sc => exact scAttemptFailed_ended rfl rfl
  case scan => exact scanAttemptFailed_ended rfl rfl

/-- The first verdict ends POLL's transaction (R247). -/
theorem pollVerdict_ended (v : Verdict) (s : State) : TransactionEnded .poll s (pollVerdict v s) := by
  unfold pollVerdict
  cases v
  case ok p w => exact enterSleep_ended _ (dispatchResponse_sc p _) (dispatchResponse_scan p _)
  case bad e w => exact enterSleep_ended _ rfl rfl

/-! ## The moves of a transaction -/

/-- One move of the master's transaction, other than its beginning. -/
inductive TransactionMove : State → State → Prop where
  | kept {s t : State} (h : TransactionKept s t) : TransactionMove s t
  | received {s : State} (acc : List Byte) (ho : rxOpen s = true) (ha : PartialResponse acc) :
      TransactionMove s { s with mAcc := acc }
  | sent {s : State} (b : Byte) (rest : List Byte) (hq : s.mTxq = b :: rest) :
      TransactionMove s { s with mTxOut := s.mTxOut ++ [b], mTxq := rest }
  | opened {s : State} (u : MasterUnit) (hu : s.lock = .held u) (hq : s.mTxq = []) :
      TransactionMove s (enterAwait u { s with mAcc := [], txn := { s.txn with elapsed := 0 } })
  | ended {s t : State} (u : MasterUnit) (hu : s.lock = .held u ∨ InTransaction s u) (h : TransactionEnded u s t) :
      TransactionMove s t

/-- Some moves, one after another. -/
abbrev TransactionMoves : State → State → Prop := Relation.ReflTransGen TransactionMove

theorem TransactionKept.moves {s t : State} (h : TransactionKept s t) : TransactionMoves s t := .single (.kept h)

/-- What every move keeps, the moves keep. -/
theorem TransactionMoves.preserves {P : State → Prop} (hP : ∀ {s t}, TransactionMove s t → P s → P t) {s t : State}
    (h : TransactionMoves s t) (hs : P s) : P t := by
  induction h with
  | refl => exact hs
  | tail _ hmove ih => exact hP hmove ih

/-- A verdict ends SC's transaction, or only publishes (R215). -/
theorem scVerdict_moves (v : Verdict) {s : State} (hu : s.lock = .held .sc) : TransactionMoves s (scVerdict v s) := by
  cases v
  case bad e w => exact TransactionKept.moves (.of_units rfl rfl rfl rfl rfl rfl)
  case ok p w =>
    have hp := dispatchResponse_transactionKept p s
    unfold scVerdict
    dsimp only
    split
    · refine .tail hp.moves (.ended .sc (.inl (hp.lock.trans hu)) ?_)
      exact ⟨rfl, rfl, rfl, by simp, nofun, .of_sc rfl rfl⟩
    · exact hp.moves

/-- A verdict ends SCAN's transaction, or only publishes (R194). -/
theorem scanVerdict_moves (v : Verdict) {s : State} (hu : s.lock = .held .scan) :
    TransactionMoves s (scanVerdict v s) := by
  cases v
  case bad e w => exact TransactionKept.moves (.of_units rfl rfl rfl rfl rfl rfl)
  case ok p w =>
    have hp := dispatchResponse_transactionKept p s
    unfold scanVerdict
    dsimp only
    split
    · exact .tail hp.moves (.ended .scan (.inl (hp.lock.trans hu)) (nextId_ended rfl rfl))
    · exact hp.moves

theorem deliver_moves (v : Verdict) (s : State) : TransactionMoves s (deliver v s) := by
  unfold deliver
  split
  case h_1 => exact .refl
  case h_2 hw => exact .single (.ended .poll (.inl (lock_of_awaiting hw)) (pollVerdict_ended v s))
  case h_3 hw => exact scVerdict_moves v (lock_of_awaiting hw)
  case h_4 hw => exact scanVerdict_moves v (lock_of_awaiting hw)

/-- The await window opens, and one of duration 0 ends in the same step (R162). -/
theorem openWindow_moves {u : MasterUnit} {s : State} (hu : s.lock = .held u) (hq : s.mTxq = []) :
    TransactionMoves s (openWindow u s) := by
  unfold openWindow
  dsimp only
  split
  · exact .tail (.single (.opened u hu hq)) (.ended u (.inr (enterAwait_inTransaction u _)) (deadline_ended u _))
  · exact .single (.opened u hu hq)

theorem masterTxByte_moves (s : State) : TransactionMoves s (masterTxByte s) := by
  unfold masterTxByte
  split
  · exact .refl
  · rename_i b rest hq
    dsimp only
    split
    · rename_i u hu
      exact .head (.sent b [] hq) (openWindow_moves (s := { s with mTxOut := s.mTxOut ++ [b], mTxq := [] }) hu rfl)
    · exact .single (.sent b _ hq)

theorem masterFault_moves (s : State) : TransactionMoves s (masterFault s) := by
  cases hlock : s.lock with
  | free =>
    rw [masterFault, hlock]
  | held u => exact .single (.ended u (.inl hlock) (masterFault_ended hlock))

/-! ## The tick -/

theorem pollTick_moves (s : State) : TransactionMoves s (pollTick s) := by
  unfold pollTick
  split
  case h_1 hst =>
    have hcount : TransactionMoves s { s with poll := { s.poll with timer := s.poll.timer - 1 } } :=
      TransactionKept.moves (.of_states rfl rfl rfl rfl rfl rfl rfl)
    dsimp only
    split
    · exact hcount.tail (.ended .poll (.inr (by simp [hst])) (deadline_ended .poll _))
    · exact hcount
  case h_2 hst =>
    refine TransactionKept.moves (.of_poll rfl rfl rfl (by simp [hst]) ?_ ?_ rfl rfl)
    · simp only [pollSleepTick, inTransaction_poll_iff]
      split <;> simp
    · simp only [PollStatesSound, pollSleepTick, hst]
      split <;> simp
  all_goals exact .refl

theorem scTick_moves (s : State) : TransactionMoves s (scTick s) := by
  unfold scTick
  split
  case h_1 hst =>
    have hcount : TransactionMoves s { s with sc := { s.sc with timer := s.sc.timer - 1 } } :=
      TransactionKept.moves (.of_states rfl rfl rfl rfl rfl rfl rfl)
    dsimp only
    split
    · exact hcount.tail (.ended .sc (.inr (by simp [hst])) (deadline_ended .sc _))
    · exact hcount
  case h_2 hst =>
    refine TransactionKept.moves (.of_sc rfl rfl rfl (by simp [hst]) ?_ (by simp [hst]) rfl rfl)
    simp only [scBackoffTick, inTransaction_sc_iff]
    split <;> simp
  all_goals exact .refl

theorem scanTick_moves (s : State) : TransactionMoves s (scanTick s) := by
  unfold scanTick
  split
  case h_1 hst =>
    have hcount : TransactionMoves s { s with scan := { s.scan with timer := s.scan.timer - 1 } } :=
      TransactionKept.moves (.of_states rfl rfl rfl rfl rfl rfl rfl)
    dsimp only
    split
    · exact hcount.tail (.ended .scan (.inr (by simp [hst])) (deadline_ended .scan _))
    · exact hcount
  case h_2 hst =>
    refine TransactionKept.moves (.of_scan rfl rfl rfl (by simp [hst]) ?_ (by simp [hst]) rfl rfl)
    simp only [scanRetrySleepTick, inTransaction_scan_iff]
    split <;> simp
  case h_3 hst =>
    unfold scanInterDelayTick
    dsimp only
    split
    · exact TransactionKept.moves
        (.of_scan rfl rfl rfl (by simp [hst]) (by simp [leaveInterDelay]) (by simp [hst]) rfl rfl)
    · exact TransactionKept.moves (.of_states rfl rfl rfl rfl rfl rfl rfl)
  all_goals exact .refl

theorem masterTick_moves (s : State) : TransactionMoves s (masterTick s) :=
  (((countElapsed_transactionKept s).moves.trans (pollTick_moves _)).trans (scTick_moves _)).trans (scanTick_moves _)

theorem Ticked.moves {parts : List Nat} {s t : State} (h : Ticked parts s t) : TransactionMoves s t := by
  by_cases h0 : 0 ∈ parts
  · obtain ⟨m, hsm, hmt, -⟩ := h.master h0
    exact (hsm.transactionKept.moves.trans (masterTick_moves m)).trans hmt.transactionKept.moves
  · exact (h.idle h0).transactionKept.moves

/-! ## The host operations -/

section
variable {s t : State}

/-- POLL_CANCEL in a cycle only notes the request (R241). -/
theorem execPollCancel_transactionKept (h : execPollCancel s = .next t) : TransactionKept s t := by
  unfold execPollCancel at h
  split at h <;> cases h
  case h_1 | h_2 => exact .refl s
  case h_3 hst | h_4 hst => exact .of_poll rfl rfl rfl (by simp [hst]) (by simp) (by simp [PollStatesSound]) rfl rfl
  case h_5 hst | h_6 hst =>
    refine ⟨rfl, rfl, rfl, fun u => by cases u <;> rfl, fun u => by cases u <;> rfl, fun u hu hw => ?_, ?_⟩
    · cases u
      case poll => exact absurd rfl hu
      all_goals exact hw
    · simp [PollStatesSound, hst]

theorem execTrySet_transactionKept {id : Byte} {rpm : Word16} {retries : Byte} {timeoutMs backoffMs : Word16}
    (h : execTrySet id rpm retries timeoutMs backoffMs s = .next t) : TransactionKept s t := by
  unfold execTrySet at h
  split at h <;> cases h
  rename_i hst
  exact .of_sc rfl rfl rfl (by simp [hst]) (by simp) (by simp [hst]) rfl rfl

theorem execScan_transactionKept {start stop retries : Byte} {interDelay readTimeout : Word16}
    (h : execScan start stop retries interDelay readTimeout s = .next t) : TransactionKept s t := by
  unfold execScan at h
  dsimp only at h
  split at h
  · rename_i hst
    split at h <;> cases h
    · exact .of_scan rfl rfl rfl (by simp [hst]) (by simp [finishScan]) (by simp [hst]) rfl rfl
    · exact .of_scan rfl rfl rfl (by simp [hst]) (by simp) (by simp [hst]) rfl rfl
  · cases h

theorem execSlaveStop_transactionKept {port : Nat} (h : execSlaveStop port s = .next t) : TransactionKept s t := by
  obtain ⟨u, hu, h⟩ := withSlave_eq_next.mp h
  split at h
  case h_6 => split at h <;> cases h <;> exact .of_units rfl rfl rfl rfl rfl rfl
  all_goals
    cases h
    exact .of_units rfl rfl rfl rfl rfl rfl

/-- No host operation begins or ends a transaction: each acts on a unit outside its transaction, notes a request, or
leaves the master units alone. -/
theorem exec_hostOp_transactionKept {i : Instr} (hi : i.isHostOp = true) (h : exec i s = .next t) :
    TransactionKept s t := by
  cases i
  case reqRead | reqSet | rspAck | rspRead => cases hi
  case scan => exact execScan_transactionKept h
  case trySet => exact execTrySet_transactionKept h
  case pollCancel => exact execPollCancel_transactionKept h
  case pollStart =>
    simp only [exec, execPollStart] at h
    split at h <;> cases h
    rename_i hst
    exact .of_poll rfl rfl rfl (by simp [hst]) (by simp) (by simp [PollStatesSound]) rfl rfl
  case decodeResponse =>
    simp only [exec, execDecodeResponse] at h
    split at h <;> cases h <;> exact .of_units rfl rfl rfl rfl rfl rfl
  case estimate | readRpm =>
    simp only [exec, execEstimate, execReadRpm] at h
    split at h <;> cases h
    exact .of_units rfl rfl rfl rfl rfl rfl
  case loadRpm =>
    simp only [exec, execLoadRpm] at h
    split at h <;> cases h
    exact .of_units (by simp) (by simp) (by simp) (by simp) (by simp) (by simp)
  case slaveStart =>
    obtain ⟨u, hu, h⟩ := withSlave_eq_next.mp h
    split at h <;> cases h
    exact (setSlave_frame _ _ s).same.transactionKept
  case slaveStop => exact execSlaveStop_transactionKept h
  all_goals
    cases h
    exact .of_units rfl rfl rfl rfl rfl rfl

end

/-! ## The events -/

/-- POLL_SKIP finds POLL idle and leaves it stopped, idle or asleep (R245). -/
theorem pollSkip_transactionKept {s : State} (h : skipEnabled s = true) : TransactionKept s (pollSkip s) := by
  obtain ⟨hout, hsound⟩ := enterSleep_settled s.params.pollDelay s
  have hst : s.poll.state = .idle := by simp_all [skipEnabled]
  exact .of_poll (by simp [pollSkip]) (by simp [pollSkip]) (by simp [pollSkip]) (by simp [hst]) hout (fun _ => hsound)
    (by simp [pollSkip]) (by simp [pollSkip])

/-- An event is a grant, which begins a transaction, or it makes moves of the one there is. -/
theorem Happened.moves {e : Input} {s t : State} (h : Happened e s t) :
    TransactionMoves s t ∨ ∃ u, e = .grant u ∧ grantEnabled s u = true ∧ t = grant u s := by
  cases h with
  | host hd hi h => exact .inl (exec_hostOp_transactionKept hi h).moves
  | tick h => exact .inl h.moves
  | none => exact .inl .refl
  | received acc ho ha => exact .inl (.single (.received acc ho ha))
  | judged v ho => exact .inl (.head (.received [] ho (.inl rfl)) (deliver_moves v _))
  | sent => exact .inl (masterTxByte_moves s)
  | fault => exact .inl (masterFault_moves s)
  | @granted u _ hg => exact .inr ⟨u, rfl, hg, rfl⟩
  | skipped hs => exact .inl (pollSkip_transactionKept hs).moves
  | port h => exact .inl h.1.same.transactionKept.moves

/-! ## The invariants of the master side -/

section
variable {s t : State}

/-- With the lock free, both buffers empty and no unit in a transaction, only POLL's states are left to look at. -/
theorem MasterInv.of_free (hlock : s.lock = .free) (hq : s.mTxq = []) (ha : s.mAcc = [])
    (hout : ∀ u, ¬ InTransaction s u) (hsound : PollStatesSound s) : MasterInv s :=
  ⟨fun u => iff_of_false (by simp [hlock]) (hout u), (absurd hq ·), (absurd ha ·), .inl ha, hsound⟩

/-- The lock's owner is the one unit in its transaction (R175 (a)). -/
theorem MasterInv.owner (h : MasterInv s) {u : MasterUnit} : s.lock = .held u ↔ InTransaction s u := h.lock u

theorem TransactionKept.masterInv (hk : TransactionKept s t) (h : MasterInv s) : MasterInv t where
  lock u := by
    rw [hk.lock, hk.transmit, hk.await]
    exact h.lock u
  queue hq := by
    obtain ⟨u, hu, htx⟩ := h.queue (hk.mTxq ▸ hq)
    exact ⟨u, hk.lock.trans hu, (hk.transmit u).trans htx⟩
  buffer ha := by
    have ho := h.buffer (hk.mAcc ▸ ha)
    simp only [rxOpen, awaiting, hk.lock, hk.await] at ho ⊢
    exact ho
  partialFrame := hk.mAcc ▸ h.partialFrame
  poll := hk.sound h.poll

/-- Once the owner's transaction has ended, no unit is in one. -/
theorem TransactionEnded.masterInv {u : MasterUnit} (he : TransactionEnded u s t) (h : MasterInv s)
    (hu : s.lock = .held u) : MasterInv t := by
  refine .of_free he.lock he.mTxq he.mAcc (fun v hv => ?_) ?_
  · by_cases hvu : v = u
    · exact he.out (hvu ▸ hv)
    · have hlock : s.lock = .held v := h.owner.mpr ((he.others.inTransaction_iff hvu).mp hv)
      exact hvu (Lock.held.inj (hlock.symm.trans hu))
  · by_cases hp : u = .poll
    · exact he.sound hp
    · exact h.poll.congr (he.others.poll hp)

theorem enterAwait_inTransaction_iff {u v : MasterUnit} :
    InTransaction (enterAwait u s) v ↔ v = u ∨ InTransaction s v := by
  cases u <;> cases v <;> simp [enterAwait]

/-- The owner's await window opens (R162). -/
theorem MasterInv.opened (h : MasterInv s) {u : MasterUnit} (hu : s.lock = .held u) (hq : s.mTxq = []) :
    MasterInv (enterAwait u { s with mAcc := [], txn := { s.txn with elapsed := 0 } }) := by
  set m := enterAwait u { s with mAcc := [], txn := { s.txn with elapsed := 0 } } with hm
  have hlock : m.lock = .held u := by cases u <;> exact hu
  have hmq : m.mTxq = [] := by cases u <;> exact hq
  have hma : m.mAcc = [] := by cases u <;> rfl
  refine ⟨fun v => ?_, (absurd hmq ·), (absurd hma ·), .inl hma, ?_⟩
  · have hin : InTransaction m v ↔ v = u ∨ InTransaction s v :=
      enterAwait_inTransaction_iff.trans (by cases v <;> rfl)
    refine Iff.trans ?_ hin.symm
    rw [hlock, ← h.owner, hu, Lock.held.injEq, eq_comm, or_self]
  · cases u
    case poll => simp [hm, enterAwait, PollStatesSound]
    all_goals exact h.poll

theorem TransactionMove.masterInv (hmove : TransactionMove s t) (h : MasterInv s) : MasterInv t := by
  cases hmove with
  | kept hk => exact hk.masterInv h
  | received acc ho ha => exact ⟨h.lock, h.queue, fun _ => ho, ha, h.poll⟩
  | sent b rest hq => exact ⟨h.lock, fun _ => h.queue (by simp [hq]), h.buffer, h.partialFrame, h.poll⟩
  | opened u hu hq => exact h.opened hu hq
  | ended u hu he => exact he.masterInv h (hu.elim id h.owner.mpr)

theorem beginTxn_inTransaction_iff {u v : MasterUnit} {f : List Byte} :
    InTransaction (beginTxn u f s) v ↔ v = u ∨ InTransaction s v := by
  cases u <;> cases v <;> simp

/-- A unit takes the free lock and queues its request (R168). -/
theorem MasterInv.begun (h : MasterInv s) (hfree : s.lock = .free) (u : MasterUnit) (f : List Byte) :
    MasterInv (beginTxn u f s) := by
  have hout : ∀ v, ¬ InTransaction s v := fun v hv => by simp [h.owner.mpr hv] at hfree
  have hacc : s.mAcc = [] := by
    by_contra ha
    exact Bool.false_ne_true ((rxOpen_of_free hfree).symm.trans (h.buffer ha))
  refine ⟨fun v => ?_, fun _ => ⟨u, beginTxn_lock u f s, by cases u <;> simp [inTransmit]⟩, (absurd (by simp [hacc]) ·),
    .inl (by simp [hacc]), ?_⟩
  · refine Iff.trans ?_ beginTxn_inTransaction_iff.symm
    simp [hout v, eq_comm]
  · cases u
    case poll => simp [PollStatesSound]
    all_goals exact h.poll

theorem grant_masterInv (h : MasterInv s) {u : MasterUnit} (hg : grantEnabled s u = true) : MasterInv (grant u s) := by
  have hfree : s.lock = .free := by simp_all [grantEnabled]
  cases u
  case poll =>
    have hk : TransactionKept s { consumePending s with poll := { s.poll with
        cursor := BitVec.ofNat 6 ((pollIndex s + 1) % setSize s.idSet)
        curId := idRegister (byteAt (pollFrame (nth s.idSet (pollIndex s)) s) 2) } } :=
      .of_states rfl rfl rfl rfl rfl rfl rfl
    exact (hk.masterInv h).begun hfree .poll _
  case sc =>
    have hk : TransactionKept s { s with sc := { s.sc with sent := s.sc.sent + 1 } } :=
      .of_states rfl rfl rfl rfl rfl rfl rfl
    exact (hk.masterInv h).begun hfree .sc _
  case scan => exact h.begun hfree .scan _

end

/-- Settles O54: an event begins a transaction on the free lock, or makes moves that each keep the invariants. -/
theorem stepKeepsMasterInvariants : Obligations.StepKeepsMasterInvariants := by
  intro s t h hstep
  rcases step_cases hstep with ⟨-, -, rfl⟩ | ⟨e, rest, n, -, hH⟩
  · exact h
  · have hk : TransactionKept s { s with inputs := rest, freeCount := n } := .of_units rfl rfl rfl rfl rfl rfl
    have hm : MasterInv { s with inputs := rest, freeCount := n } := hk.masterInv h
    rcases hH.moves with hmoves | ⟨u, -, hg, rfl⟩
    · exact hmoves.preserves TransactionMove.masterInv hm
    · exact grant_masterInv hm hg

end Sys2Proof.Machine
end

section
/-! SUPPORT. Internal events and fair runs (R170 to R172, R245, R381, R382): which internal events are enabled, that a
step takes one, and how long a unit waits for the lock. -/

namespace Sys2Proof.Machine

/-! ## The internal events that are enabled -/

section
variable {s : State} {u : MasterUnit}

theorem mem_enabledInternal_grant : .grant u ∈ enabledInternal s ↔ grantEnabled s u = true := by
  cases u <;> simp [enabledInternal]

theorem mem_enabledInternal_skip : .pollSkip ∈ enabledInternal s ↔ skipEnabled s = true := by
  simp [enabledInternal]

/-- An internal event is a grant or POLL_SKIP. -/
theorem enabledInternal_cases {e : Input} (h : e ∈ enabledInternal s) :
    (∃ u, e = .grant u ∧ grantEnabled s u = true) ∨ (e = .pollSkip ∧ skipEnabled s = true) := by
  cases e
  case grant u => exact .inl ⟨u, rfl, mem_enabledInternal_grant.mp h⟩
  case pollSkip => exact .inr ⟨rfl, mem_enabledInternal_skip.mp h⟩
  all_goals simp [enabledInternal] at h

theorem grantEnabled_iff : grantEnabled s u = true ↔ s.lock = .free ∧ waitsForLock s u = true := by
  simp [grantEnabled]

theorem pollWaits_iff : waitsForLock s .poll = true ↔ s.poll.state = .idle ∧ s.idSet ≠ 0 := by
  rw [Ne, ← setSize_eq_zero]
  simp [waitsForLock, Nat.one_le_iff_ne_zero]

theorem skipEnabled_iff : skipEnabled s = true ↔ s.poll.state = .idle ∧ s.idSet = 0 := by
  simp [skipEnabled, setSize_eq_zero]

/-- An enabled internal event has a step, whatever free values the steps have used. -/
theorem handle_of_enabled {e : Input} (h : e ∈ enabledInternal s) (n : Nat) :
    ∃ t, handle e { s with freeCount := n } = .next t := by
  rcases enabledInternal_cases h with ⟨u, rfl, hg⟩ | ⟨rfl, hs⟩
  · have hg' : grantEnabled { s with freeCount := n } u = true := by cases u <;> exact hg
    exact ⟨_, if_pos hg'⟩
  · exact ⟨_, if_pos (show skipEnabled { s with freeCount := n } = true from hs)⟩

/-- With no input the step is that of an enabled internal event, up to the counter of free values, or nothing happens
where none is enabled. -/
theorem step_internal (hin : s.inputs = []) :
    (enabledInternal s = [] ∧ step s = .next s) ∨
      ∃ e n, e ∈ enabledInternal s ∧ step s = handle e { s with freeCount := n } := by
  have hstep : step s = internalStep s := by simp only [step, stepEvent, hin]
  rw [hstep, internalStep]
  rcases internalChoice_cases s with ⟨hc, hnone⟩ | ⟨e, hc, he⟩
  · exact .inl ⟨hnone, by rw [hc]⟩
  · refine .inr ?_
    rw [hc]
    dsimp only
    split
    · exact ⟨e, s.freeCount, he, rfl⟩
    · exact ⟨e, s.freeCount + 1, he, rfl⟩

end

/-- Settles O44: with no input the internal choice decides, and a grant is enabled as R171 says. -/
theorem internalStepsTakeEnabledEvents : Obligations.InternalStepsTakeEnabledEvents := by
  intro s hin
  refine ⟨fun hnone => ?_, fun hsome => ?_, fun u => ?_⟩
  · rcases step_internal hin with ⟨-, hstep⟩ | ⟨e, n, he, -⟩
    · exact hstep
    · simp [hnone] at he
  · rcases step_internal hin with ⟨hnone, -⟩ | ⟨e, n, he, hstep⟩
    · exact absurd hnone hsome
    · obtain ⟨t, ht⟩ := handle_of_enabled he n
      exact ⟨e, n, t, he, hstep.trans (onEvent_eq e _).symm, hstep.trans ht⟩
  · rw [mem_enabledInternal_grant, grantEnabled_iff]
    refine and_congr_right fun _ => ?_
    cases u
    case poll => exact pollWaits_iff
    case sc | scan => exact decide_eq_true_iff

/-! ## A unit that waits for the lock -/

/-- U waits for the lock and does not hold it (R170). -/
def LockPending (u : MasterUnit) (s : State) : Prop := waitsForLock s u = true ∧ s.lock ≠ .held u

section
variable {u v : MasterUnit} {s t : State}

/-- A unit that waits for the lock is not in a transaction. -/
theorem not_inTransaction_of_waits (h : waitsForLock s u = true) : ¬ InTransaction s u := by
  cases u <;> simp_all [waitsForLock]

theorem enterAwait_others (u : MasterUnit) (s : State) :
    OthersKept u s (enterAwait u { s with mAcc := [], txn := { s.txn with elapsed := 0 } }) := by
  cases u
  case poll => exact .of_poll rfl rfl
  case sc => exact .of_sc rfl rfl
  case scan => exact .of_scan rfl rfl

theorem grant_others (u : MasterUnit) (s : State) : OthersKept u s (grant u s) := by
  cases u
  case poll => exact .of_poll rfl rfl
  case sc => exact .of_sc rfl rfl
  case scan => exact .of_scan rfl rfl

theorem grant_lock (u : MasterUnit) (s : State) : (grant u s).lock = .held u := by cases u <;> rfl

/-- A grant that has a next state is U's start of a transaction (R171). -/
theorem eq_grant_of_handle (h : handle (.grant u) s = .next t) : t = grant u s := by
  simp only [handle, grantStep] at h
  split at h <;> cases h
  rfl

/-- A POLL_SKIP that has a next state is the scheduler's (R245). -/
theorem eq_pollSkip_of_handle (h : handle .pollSkip s = .next t) : t = pollSkip s := by
  simp only [handle, skipStep] at h
  split at h <;> cases h
  rfl

/-- SC or SCAN waits on while another unit's registers and the lock move. -/
theorem LockPending.others (h : LockPending u s) (hu : u ≠ .poll) (huv : u ≠ v) (hk : OthersKept v s t)
    (hlock : t.lock ≠ .held u) : LockPending u t :=
  ⟨(hk.waits huv hu).trans h.1, hlock⟩

/-- No move of a transaction makes SC or SCAN give up waiting for the lock. -/
theorem TransactionMove.lockPending (hu : u ≠ .poll) (hmove : TransactionMove s t) (h : LockPending u s) :
    LockPending u t := by
  have owner_ne : ∀ {v}, s.lock = .held v → u ≠ v := fun hv huv => h.2 (huv ▸ hv)
  cases hmove with
  | kept hk => exact ⟨hk.waits u hu h.1, hk.lock ▸ h.2⟩
  | received | sent => cases u <;> exact h
  | opened v hv hq =>
    exact h.others hu (owner_ne hv) (enterAwait_others v s) (by cases v <;> exact h.2)
  | ended v hv he =>
    have huv : u ≠ v := hv.elim owner_ne fun hin huv => not_inTransaction_of_waits h.1 (huv ▸ hin)
    exact h.others hu huv he.others (by simp [he.lock])

/-- SC or SCAN waits until it is granted the lock. -/
theorem step_lockPending (hu : u ≠ .poll) (h : LockPending u s) (hstep : step s = .next t) :
    LockPending u t ∨ t.lock = .held u := by
  rcases step_cases hstep with ⟨-, -, rfl⟩ | ⟨e, rest, n, -, hH⟩
  · exact .inl h
  · have hm : LockPending u { s with inputs := rest, freeCount := n } := by cases u <;> exact h
    rcases hH.moves with hmoves | ⟨v, -, -, rfl⟩
    · exact .inl (hmoves.preserves (TransactionMove.lockPending hu) hm)
    · rcases eq_or_ne u v with rfl | huv
      · exact .inr (grant_lock u _)
      · exact .inl (hm.others hu huv (grant_others v _) (by simpa [grant_lock] using huv.symm))

end

/-! ## Runs -/

section
variable {r : Run} {u : MasterUnit} {k n : Nat}

/-- The step that takes an event is that event's. -/
theorem Run.handle_taken {e : Input} (h : r.taken n = some e) :
    ∃ rest m, handle e { (r.state n).arrive (r.events n) (r.delays n) with inputs := rest, freeCount := m } =
      .next (r.state (n + 1)) := by
  rcases step_event (r.steps n) with ⟨hnone, -⟩ | ⟨e', rest, m, hsome, -, hhandle⟩
  · exact absurd (hnone.symm.trans h) nofun
  · cases hsome.symm.trans h
    exact ⟨rest, m, hhandle⟩

theorem Run.lock_of_granted (h : r.taken n = some (.grant u)) : (r.state (n + 1)).lock = .held u := by
  obtain ⟨rest, m, hhandle⟩ := Run.handle_taken h
  rw [eq_grant_of_handle hhandle, grant_lock]

/-- `enter_sleep` of a delay above 0 leaves POLL asleep or stopped (R249). -/
theorem enterSleep_not_idle {d : Word16} (hd : d ≠ 0) (s : State) : (enterSleep d s).poll.state ≠ .idle := by
  simp only [enterSleep, if_neg hd]
  split <;> simp

theorem Run.poll_of_skipped (h : r.taken n = some .pollSkip) (hd : (r.state n).params.pollDelay ≠ 0) :
    (r.state (n + 1)).poll.state ≠ .idle := by
  obtain ⟨rest, m, hhandle⟩ := Run.handle_taken h
  rw [eq_pollSkip_of_handle hhandle]
  exact enterSleep_not_idle hd _

/-- No step of a run changes the parameters. -/
theorem Run.params_eq (r : Run) (h : k ≤ n) : (r.state n).params = (r.state k).params := by
  induction n, h using Nat.le_induction with
  | base => rfl
  | succ n _ ih => exact (stepsOnlyExtendTheTraces _ _ (r.steps n)).params.trans ih

/-- As long as SC or SCAN is not granted the lock it waits for, it waits. -/
theorem Run.lockPending (hu : u ≠ .poll) (hw : waitsForLock (r.state k) u = true)
    (hnever : ∀ n, k ≤ n → (r.state n).lock ≠ .held u) (hn : k ≤ n) : LockPending u (r.state n) := by
  induction n, hn using Nat.le_induction with
  | base => exact ⟨hw, hnever k le_rfl⟩
  | succ n hn ih =>
    have harrived : LockPending u ((r.state n).arrive (r.events n) (r.delays n)) := by cases u <;> exact ih
    exact (step_lockPending hu harrived (r.steps n)).resolve_right (hnever _ (Nat.le_succ_of_le hn))

/-- Under weak fairness SC or SCAN does not wait for ever beside a free lock (R172). -/
theorem Run.WeaklyFair.lock_taken (hfair : r.WeaklyFair) (hu : u ≠ .poll) (hw : waitsForLock (r.state k) u = true) :
    ∃ n, k ≤ n ∧ (r.state n).lock ≠ .free := by
  by_contra! hfree
  have hpending : ∀ n, k ≤ n → LockPending u (r.state n) := fun n =>
    Run.lockPending hu hw fun n hn => by simp [hfree n hn]
  obtain ⟨n, hn, htaken⟩ := hfair (.grant u) k fun n hn =>
    mem_enabledInternal_grant.mpr (grantEnabled_iff.mpr ⟨hfree n hn, (hpending n hn).1⟩)
  exact absurd ((Run.lock_of_granted htaken).symm.trans (hfree _ (Nat.le_succ_of_le hn))) nofun

/-- An arbiter that honours what R382 asks grants SC or SCAN the lock that is free again and again. -/
theorem Run.ArbiterFair.granted (hfair : r.ArbiterFair) (hfree : ∀ m, ∃ n, m ≤ n ∧ (r.state n).lock = .free)
    (hu : u ≠ .poll) (hw : waitsForLock (r.state k) u = true) : ∃ n, k ≤ n ∧ (r.state n).lock = .held u := by
  by_contra! hnever
  obtain ⟨n, hn, htaken⟩ := hfair (.grant u) k fun m => by
    obtain ⟨n, hn, hlock⟩ := hfree (max m k)
    have hpending := Run.lockPending hu hw hnever (le_of_max_le_right hn)
    exact ⟨n, le_of_max_le_left hn, mem_enabledInternal_grant.mpr (grantEnabled_iff.mpr ⟨hlock, hpending.1⟩)⟩
  exact hnever _ (Nat.le_succ_of_le hn) (Run.lock_of_granted htaken)

/-- Under weak fairness POLL does not stay idle for ever beside a free lock: its grant stays enabled where IDSET has a
member, else POLL_SKIP does (R245, R381 (a)). -/
theorem Run.WeaklyFair.poll_leaves_idle (hfair : r.WeaklyFair) (hdelay : (r.state k).params.pollDelay ≠ 0)
    (hset : ∀ n, k ≤ n → (r.state n).idSet = (r.state k).idSet) :
    ∃ n, k ≤ n ∧ ((r.state n).lock ≠ .free ∨ (r.state n).poll.state ≠ .idle) := by
  by_contra! hstay
  by_cases hempty : (r.state k).idSet = 0
  · obtain ⟨n, hn, htaken⟩ := hfair .pollSkip k fun n hn =>
      mem_enabledInternal_skip.mpr (skipEnabled_iff.mpr ⟨(hstay n hn).2, (hset n hn).trans hempty⟩)
    exact Run.poll_of_skipped htaken (by rwa [r.params_eq hn]) (hstay _ (Nat.le_succ_of_le hn)).2
  · obtain ⟨n, hn, htaken⟩ := hfair (.grant .poll) k fun n hn =>
      mem_enabledInternal_grant.mpr (grantEnabled_iff.mpr
        ⟨(hstay n hn).1, pollWaits_iff.mpr ⟨(hstay n hn).2, by rwa [hset n hn]⟩⟩)
    exact absurd ((Run.lock_of_granted htaken).symm.trans (hstay _ (Nat.le_succ_of_le hn)).1) nofun

end

/-- Settles O45: what stays enabled in a fair run is taken, and a unit that is not granted the lock waits on. -/
theorem waitingUnitsAreGranted : Obligations.WaitingUnitsAreGranted := by
  intro r k
  refine ⟨fun hfair => ⟨fun hsc => ?_, fun hscan => ?_, fun _ hdelay hset => ?_⟩,
    fun hfair hfree => ⟨fun hsc => ?_, fun hscan => ?_⟩⟩
  · exact hfair.lock_taken (u := .sc) nofun (decide_eq_true hsc)
  · exact hfair.lock_taken (u := .scan) nofun (decide_eq_true hscan)
  · exact hfair.poll_leaves_idle hdelay hset
  · exact hfair.granted hfree nofun (decide_eq_true hsc)
  · exact hfair.granted hfree nofun (decide_eq_true hscan)

end Sys2Proof.Machine
end

section
/-! SUPPORT. The master's transport, event by event (R160 to R167, R174, R250): the request leaves, the reassembler
judges a window, a response is filed and published, a fault ends the transaction. The invariants after reset. -/

namespace Sys2Proof.Machine

/-! ## The reassembler -/

section
variable {s : State} {b : Byte}

/-- With no await window open a byte is dropped (R161). -/
theorem masterRx_of_closed (h : rxOpen s = false) : masterRx b s = .next s :=
  if_neg (Bool.eq_false_iff.mp h)

/-- The buffer of an open window once a byte is appended and the header sought (R161). -/
def soughtBuffer (b : Byte) (s : State) : List Byte := resync rspMagic0 rspMagic1 (s.mAcc ++ [b])

/-- Before the Command byte is there the bytes are kept (R164). -/
theorem masterRx_of_short (ho : rxOpen s = true) (h4 : (soughtBuffer b s).length < 4) :
    masterRx b s = .next { s with mAcc := soughtBuffer b s } := by
  rw [masterRx, if_pos ho]
  exact if_pos h4

/-- A Command that announces no length is judged at once (R164). -/
theorem masterRx_of_unknown (ho : rxOpen s = true) (h4 : 4 ≤ (soughtBuffer b s).length)
    (hlen : responseLength (byteAt (soughtBuffer b s) 3) = none) :
    masterRx b s = .next (deliver (.bad .unknownCommand ((soughtBuffer b s).take 4)) { s with mAcc := [] }) := by
  unfold soughtBuffer at *
  simp only [masterRx, if_pos ho, if_neg h4.not_gt, hlen]

/-- A frame shorter than its Command announces is kept (R164). -/
theorem masterRx_of_partial {len : Nat} (ho : rxOpen s = true) (h4 : 4 ≤ (soughtBuffer b s).length)
    (hlen : responseLength (byteAt (soughtBuffer b s) 3) = some len) (hl : (soughtBuffer b s).length < len) :
    masterRx b s = .next { s with mAcc := soughtBuffer b s } := by
  unfold soughtBuffer at *
  simp only [masterRx, if_pos ho, if_neg h4.not_gt, hlen, if_pos hl]

/-- A frame as long as its Command announces is run (R164). -/
theorem masterRx_of_whole {len : Nat} (ho : rxOpen s = true) (h4 : 4 ≤ (soughtBuffer b s).length)
    (hlen : responseLength (byteAt (soughtBuffer b s) 3) = some len) (hl : len ≤ (soughtBuffer b s).length) :
    masterRx b s = runResponseWindow ((soughtBuffer b s).take len) { s with mAcc := [] } := by
  unfold soughtBuffer at *
  simp only [masterRx, if_pos ho, if_neg h4.not_gt, hlen, if_neg hl.not_gt]

/-- A buffer of four bytes after seeking begins with the magic (R129). -/
theorem soughtBuffer_magic (h4 : 4 ≤ (soughtBuffer b s).length) :
    ∃ id cmd body, soughtBuffer b s = rspMagic0 :: rspMagic1 :: id :: cmd :: body := by
  rcases resync_front rspMagic0 rspMagic1 (s.mAcc ++ [b]) with h | h | ⟨rest, h⟩
  · rw [soughtBuffer, h] at h4
    simp at h4
  · rw [soughtBuffer, h] at h4
    simp at h4
  · rw [soughtBuffer, h] at h4 ⊢
    match rest with
    | id :: cmd :: body => exact ⟨id, cmd, body, rfl⟩
    | [_] | [] => simp at h4

end

/-! ## A whole window -/

/-- A window that is as long as its Command announces is the frame of a response instruction (R101). -/
theorem response_of_window {id cmd : Byte} {body : List Byte}
    (hlen : responseLength cmd = some (body.length + 4)) :
    (∃ rpm ck, rspMagic0 :: rspMagic1 :: id :: cmd :: body = encode (.rspAck id rpm ck)) ∨
      ∃ rpm alarm ck, rspMagic0 :: rspMagic1 :: id :: cmd :: body = encode (.rspRead id rpm alarm ck) := by
  unfold responseLength at hlen
  split at hlen
  case isTrue hack =>
    subst hack
    have hbody : body.length = 3 := by simpa [ackLen, eq_comm] using hlen
    obtain ⟨h, l, ck, rfl⟩ := List.length_eq_three.mp hbody
    exact .inl ⟨join16 h l, ck, by simp [encode]⟩
  case isFalse =>
    split at hlen
    case isTrue hread =>
      subst hread
      match body, hlen with
      | [h, l, aLo, aHi, ck], _ => exact .inr ⟨join16 h l, join16 aHi aLo, ck, by simp [encode]⟩
    case isFalse => cases hlen

/-- A whole window is judged and the verdict delivered, and only its checksum can be wrong (R164). -/
theorem runResponseWindow_whole {id cmd : Byte} {body : List Byte} (s : State)
    (hlen : responseLength cmd = some (body.length + 4)) :
    let w := rspMagic0 :: rspMagic1 :: id :: cmd :: body
    runResponseWindow w s = .next (deliver (judgeResponse w) s) ∧
      ∀ e, decodeResponse w w.length = .error e → e = .checksumMismatch := by
  intro w
  have only_checksum : ∀ {c : Prop} [Decidable c] {p : ParsedResponse} {e : DecodeError},
      (if c then Except.ok p else .error .checksumMismatch) = .error e → e = .checksumMismatch := by
    intro c _ p e he
    split at he <;> cases he
    rfl
  rcases response_of_window (id := id) hlen with ⟨rpm, ck, hw⟩ | ⟨rpm, alarm, ck, hw⟩
  · rw [show w = _ from hw]
    refine ⟨?_, fun e he => only_checksum ((decodeResponse_rspAck id ck rpm).symm.trans he)⟩
    simp [runResponseWindow, encode, decodeResponseFrame, exec, execRspAck]
  · rw [show w = _ from hw]
    refine ⟨?_, fun e he => only_checksum ((decodeResponse_rspRead id ck rpm alarm).symm.trans he)⟩
    simp [runResponseWindow, encode, decodeResponseFrame, exec, execRspRead]

/-- An announced length is at least that of the header (R101). -/
theorem four_le_of_responseLength {cmd : Byte} {len : Nat} (h : responseLength cmd = some len) : 4 ≤ len := by
  unfold responseLength at h
  split at h
  · cases h; decide
  · split at h <;> cases h
    decide

/-- Once the announced length is reached, the verdict on the window goes to the owner, and only its checksum can be
wrong (R164). -/
theorem masterRx_judges {s : State} {b : Byte} {len : Nat} (ho : rxOpen s = true)
    (h4 : 4 ≤ (soughtBuffer b s).length) (hlen : responseLength (byteAt (soughtBuffer b s) 3) = some len)
    (hl : len ≤ (soughtBuffer b s).length) :
    let w := (soughtBuffer b s).take len
    w.length = len ∧ masterRx b s = .next (deliver (judgeResponse w) { s with mAcc := [] }) ∧
      ∀ e, decodeResponse w len = .error e → e = .checksumMismatch := by
  intro w
  have hwlen : w.length = len := List.length_take_of_le hl
  obtain ⟨id, cmd, body, hacc⟩ := soughtBuffer_magic h4
  obtain ⟨k, rfl⟩ := Nat.exists_eq_add_of_le' (four_le_of_responseLength hlen)
  have hw : w = rspMagic0 :: rspMagic1 :: id :: cmd :: body.take k := by
    simp only [w, hacc, List.take_succ_cons]
  have hcmd : responseLength cmd = some ((body.take k).length + 4) := by
    have hk : (body.take k).length + 4 = k + 4 := by simpa [hw] using hwlen
    rw [hk, ← hlen, hacc]
    rfl
  obtain ⟨hrun, herror⟩ := runResponseWindow_whole (id := id) { s with mAcc := [] } hcmd
  rw [← hw] at hrun herror
  rw [hwlen] at herror
  exact ⟨hwlen, (masterRx_of_whole ho h4 hlen hl).trans hrun, herror⟩

/-- Settles O28: the reassembler's branches, and the verdict on a window of the announced length. -/
theorem reassemblerJudgesEachWindow : Obligations.ReassemblerJudgesEachWindow := by
  refine ⟨fun b s hclosed => (onEvent_eq _ s).trans (masterRx_of_closed hclosed), fun b s ho => ?_⟩
  intro acc cmd L empty
  have hknown : cmd = cmdTargetAck ∨ cmd = cmdRead → responseLength cmd = some L := by
    rintro (h | h) <;> simp [L, h, responseLength]
  have hunknown : cmd ≠ cmdTargetAck → cmd ≠ cmdRead → responseLength cmd = none := fun h1 h5 => by
    rw [responseLength, if_neg h1, if_neg h5]
  rw [onEvent_eq]
  refine ⟨fun h4 => masterRx_of_short ho h4, fun h4 h1 h5 => masterRx_of_unknown ho h4 (hunknown h1 h5),
    fun h4 hcmd hl => masterRx_of_partial ho h4 (hknown hcmd) hl, fun h4 hcmd hl => ?_⟩
  obtain ⟨hwlen, hrx, herror⟩ := masterRx_judges ho h4 (hknown hcmd) hl
  have hjudge : handle (.mRx b) s = .next (deliver (judgeResponse (acc.take L)) empty) := hrx
  rw [hjudge, judgeResponse, show (acc.take L).length = L from hwlen]
  refine ⟨fun r hr => by rw [hr], fun e he => ?_⟩
  rw [he, herror e he]
  rfl

/-! ## The request leaves (R160, R162) -/

section
variable {s : State}

theorem masterTxByte_of_empty (hq : s.mTxq = []) : masterTxByte s = s := by
  rw [masterTxByte, hq]

/-- A byte that is not the last leaves. -/
theorem masterTxByte_of_more {b c : Byte} {rest : List Byte} (hq : s.mTxq = b :: c :: rest) :
    masterTxByte s = { s with mTxOut := s.mTxOut ++ [b], mTxq := c :: rest } := by
  simp only [masterTxByte, hq]

/-- With the last byte the owner's await window opens. -/
theorem masterTxByte_of_last {b : Byte} {u : MasterUnit} (hq : s.mTxq = [b]) (hu : s.lock = .held u) :
    masterTxByte s = openWindow u { s with mTxOut := s.mTxOut ++ [b], mTxq := [] } := by
  simp only [masterTxByte, hq, hu]

/-- The window's duration is in the owner's timer once it opens. -/
theorem unitTimer_enterAwait (u : MasterUnit) (s : State) : unitTimer (enterAwait u s) u = windowOf s u := by
  cases u <;> rfl

end

/-- Settles O27: the queue's three shapes; the open window's registers, one owner at a time. -/
theorem requestLeavesAndWindowOpens : Obligations.RequestLeavesAndWindowOpens := by
  intro u s hu
  simp only [onEvent_eq, handle]
  refine ⟨fun hq => by rw [masterTxByte_of_empty hq], fun b c rest hq => by rw [masterTxByte_of_more hq],
    fun b hq => ?_⟩
  rw [masterTxByte_of_last hq hu]
  dsimp only [openWindow]
  rw [unitTimer_enterAwait]
  cases u <;> rfl

/-! ## A response is filed and published (R167) -/

/-- A write of the map changes nothing else. -/
theorem writeMap_rest (id : Nat) (v : Word16) (s : State) : { writeMap id v s with rpmMap := s.rpmMap } = s := by
  unfold writeMap
  split <;> rfl

/-- An entry after a write of the map. -/
theorem readMap_writeMap {id a : Nat} (v : Word16) (s : State) (h1 : 1 ≤ a) (h64 : a ≤ 64) :
    readMap (writeMap id v s) a = if a = id then v else readMap s a := by
  split
  · rename_i ha
    subst ha
    exact readMap_writeMap_self v s ⟨h1, h64⟩
  · rename_i ha
    exact readMap_writeMap_other v s h1 ha

/-- What is published beside a write of the map, every other register being the same. -/
theorem emit_writeMap_rest (e : OutEvent) (id : Nat) (v : Word16) (s : State) :
    ({ emit e (writeMap id v s) with rpmMap := s.rpmMap } : State) = { s with evOut := s.evOut ++ [e] } :=
  congrArg (emit e) (writeMap_rest id v s)

/-- A Read response is no acknowledgment: SC files and publishes it and waits on (R215). -/
theorem deliver_readRsp_of_sc {s : State} (hu : s.lock = .held .sc) (hst : s.sc.state = .await) (id : Byte)
    (rpm alarm : Word16) (w : List Byte) :
    deliver (.ok (.readRsp id rpm alarm) w) s = dispatchResponse (.readRsp id rpm alarm) s := by
  have hawait : awaiting s = some .sc := by simp [awaiting, hu, inAwait, hst]
  simp [deliver, hawait, scVerdict, scMatches]

/-- Settles O30: the write of the map and the event; the instruction by the verdict on its frame. -/
theorem responsesAreFiledAndPublished : Obligations.ResponsesAreFiledAndPublished := by
  intro id rpm alarm s
  refine ⟨fun a h1 h64 => ⟨readMap_writeMap rpm s h1 h64, readMap_writeMap rpm s h1 h64⟩,
    emit_writeMap_rest _ _ _ s, emit_writeMap_rest _ _ _ s, fun hu hst => ?_⟩
  obtain ⟨-, hexec⟩ := responseFramesAreJudged id (BitVec.ofNat 8 (0x44 + 0x54 + id.toNat + 0x05 + rpm.toNat / 256 +
    rpm.toNat % 256 + alarm.toNat % 256 + alarm.toNat / 256)) rpm alarm s
  rw [hexec, if_pos (BitVec.toNat_ofNat _ _), deliver_readRsp_of_sc hu hst]

/-! ## A transport fault (R174, R197, R218, R250) -/

theorem masterFault_of_free {s : State} (h : s.lock = .free) : masterFault s = s := by
  rw [masterFault, h]

/-- Settles O38: the fault's two events and the end of the transaction, then the owner's own continuation. -/
theorem masterFaultEndsTheTransaction : Obligations.MasterFaultEndsTheTransaction := by
  intro s row ended
  have hended : ∀ u, endTxn u [] false true (raise (.transportFault .m) s) = ended u := fun u => by
    simp [endTxn, raise, emit, Exc.event, byteAt, ended, row]
  simp only [onEvent_eq, handle]
  refine ⟨fun h => by rw [masterFault_of_free h], fun h => ?poll, fun h => ?sc, fun h => ?scan⟩
  case sc => simp only [masterFault, h, hended]
  case scan => simp only [masterFault, h, hended]
  case poll =>
    simp only [masterFault, h, hended]
    rfl

/-! ## The invariants after reset (R44) -/

/-- With every master unit stopped the registers keep to their ranges. -/
theorem resetWith_rangesInv (ports : Nat) : RangesInv (State.resetWith ports) :=
  have hmax : (BitVec.ofNat 11 maxRpmDefault).toNat ≤ maxRpmCap := by decide
  (rangesInv_iff _).mpr ⟨hmax, nofun, .of_idle rfl, .of_idle rfl⟩

theorem resetWith_masterInv (ports : Nat) : MasterInv (State.resetWith ports) := by
  refine .of_free rfl rfl rfl (fun u => ?_) ⟨nofun, nofun⟩
  cases u <;> simp [State.resetWith]

theorem resetWith_timersInv (ports : Nat) : TimersInv (State.resetWith ports) := by
  refine ⟨nofun, nofun, nofun, fun u hu => ?_⟩
  rw [eq_reset_of_mem_slaves hu]
  nofun

theorem resetWith_slavesInv (ports : Nat) : SlavesInv (State.resetWith ports) := fun u hu => by
  rw [eq_reset_of_mem_slaves hu]
  exact .of_stopped rfl rfl rfl

/-- Settles O50: each invariant, whatever the number of ports. -/
theorem invariantsHoldAtReset : Obligations.InvariantsHoldAtReset := by
  have hreset : ∀ ports, let s := State.resetWith ports
      MasterInv s ∧ TimersInv s ∧ SlavesInv s ∧ RangesInv s := fun ports =>
    ⟨resetWith_masterInv ports, resetWith_timersInv ports, resetWith_slavesInv ports, resetWith_rangesInv ports⟩
  exact ⟨hreset Config.nports, hreset⟩

end Sys2Proof.Machine
end

section
/-! SUPPORT. Deadlines and the tick that takes one (R166, R341): what the end of an await window does with the shared
registers, and which other parts of the tick leave that alone. -/

namespace Sys2Proof.Machine

/-! ## The end of a window -/

/-- What taking U's deadline publishes before U's own continuation: Truncated if bytes are pending, Timeout, the log
row (R166, R173). -/
def timeoutEvents (u : MasterUnit) (s : State) : List OutEvent :=
  (if s.mAcc = [] then [] else [.decodeErr (.master u) .truncated]) ++
    [.timeout (.master u) (byteAt s.txn.req 2), .txn u (byteAt s.txn.req 2) s.txn.req [] s.txn.elapsed true false]

/-- U's transaction has ended at its deadline; U has not gone on yet. -/
def timedOut (u : MasterUnit) (s : State) : State :=
  { s with mAcc := [], mTxq := [], lock := .free, evOut := s.evOut ++ timeoutEvents u s }

/-- How U goes on once its transaction has ended at the deadline (R195, R216, R248). -/
def afterTimeout (u : MasterUnit) (s : State) : State :=
  match u with
  | .poll => enterSleep s.params.pollDelay s
  | .sc => scAttemptFailed s
  | .scan => scanAttemptFailed s

theorem deadlineTail_eq (u : MasterUnit) (s : State) :
    deadlineTail u s = afterTimeout u (endTxn u [] true false s) := by
  cases u <;> rfl

theorem deadline_eq (u : MasterUnit) (s : State) : deadline u s = afterTimeout u (timedOut u s) := by
  rw [deadline, deadlineTail_eq]
  congr 1
  split <;> rename_i hacc <;> simp [endTxn, raise, emit, Exc.event, timedOut, timeoutEvents, hacc]

/-! ## SCAN's continuations (R195, R196, R198) -/

theorem attempts_eq_ofNat (retries : Byte) : attempts retries = BitVec.ofNat 9 (retries.toNat + 1) := by
  unfold attempts
  bv_omega

theorem idByte_eq_ofNat (id : BitVec 7) : idByte id = BitVec.ofNat 8 id.toNat := (BitVec.ofNat_toNat 8 id).symm

theorem toNat_idByte (id : BitVec 7) : (idByte id).toNat = id.toNat :=
  BitVec.toNat_setWidth_of_le (by decide)

theorem nextId_eq (s : State) :
    nextId s =
      if s.scan.cur = s.scan.hi then
        { s with
          idSet := s.scan.result, evOut := s.evOut ++ [.scanDone s.scan.result]
          scan := { s.scan with state := .idle } }
      else if s.scan.interDelay = 0 then
        { s with scan := { s.scan with
            timer := 0, cur := s.scan.cur + 1
            left := BitVec.ofNat 9 (s.scan.retries.toNat + 1), state := .lockWait } }
      else { s with scan := { s.scan with timer := s.scan.interDelay, state := .interDelay } } := by
  unfold nextId
  split
  · rfl
  · dsimp only
    split
    · rename_i hzero
      simp only [leaveInterDelay, attempts_eq_ofNat, hzero]
    · rfl

theorem scanAttemptFailed_eq (s : State) :
    scanAttemptFailed s =
      if s.scan.left ≠ 1 then
        { s with scan := { s.scan with
            timer := s.params.scanRetrySleep, left := s.scan.left - 1
            state := if s.params.scanRetrySleep = 0 then .lockWait else .retrySleep } }
      else nextId { s with scan := { s.scan with left := 0 } } := by
  unfold scanAttemptFailed
  dsimp only
  by_cases hlast : s.scan.left = 1
  · rw [if_pos (sub_eq_zero.mpr hlast), if_neg (not_not.mpr hlast), sub_eq_zero.mpr hlast]
  · rw [if_neg (mt sub_eq_zero.mp hlast), if_pos hlast]
    split <;> rfl

/-! ## What a deadline depends on -/

/-- U's own registers are the same. -/
def SameUnit (u : MasterUnit) (s t : State) : Prop :=
  match u with
  | .poll => t.poll = s.poll
  | .sc => t.sc = s.sc
  | .scan => t.scan = s.scan

theorem SameMaster.unit {s t : State} (h : SameMaster s t) (u : MasterUnit) : SameUnit u s t := by
  cases u
  case poll => exact h.poll
  case sc => exact h.sc
  case scan => exact h.scan

theorem SameUnit.trans {u : MasterUnit} {s t r : State} (h : SameUnit u s t) (k : SameUnit u t r) :
    SameUnit u s r := by
  cases u <;> exact Eq.trans k h

/-- What writes another unit's registers leaves U's alone. -/
theorem OthersKept.unit {u v : MasterUnit} {s t : State} (h : OthersKept v s t) (hv : v ≠ u) : SameUnit u s t := by
  cases u
  case poll => exact h.poll hv
  case sc => exact h.sc hv
  case scan => exact h.scan hv

/-- What U's rules read and write is the same in both states, and the first has published since `x` what the second
has since `y`. -/
structure AgreeFor (u : MasterUnit) (x y : List OutEvent) (s t : State) : Prop where
  params : t.params = s.params
  idSet : t.idSet = s.idSet
  lock : t.lock = s.lock
  mTxq : t.mTxq = s.mTxq
  mAcc : t.mAcc = s.mAcc
  txn : t.txn = s.txn
  unit : SameUnit u s t
  evOut : ∃ new, s.evOut = x ++ new ∧ t.evOut = y ++ new

section
variable {u : MasterUnit} {x y : List OutEvent} {s t : State}

theorem SameMaster.agreeFor (h : SameMaster s t) : AgreeFor u s.evOut t.evOut s t :=
  ⟨h.params, h.idSet, h.lock, h.mTxq, h.mAcc, h.txn, h.unit u, [], by simp⟩

/-- Both states publish the same next. -/
theorem AgreeFor.published (h : AgreeFor u x y s t) (es : List OutEvent) :
    ∃ new, s.evOut ++ es = x ++ new ∧ t.evOut ++ es = y ++ new := by
  obtain ⟨new, hs, ht⟩ := h.evOut
  exact ⟨new ++ es, by simp [hs], by simp [ht]⟩

theorem AgreeFor.timedOut (h : AgreeFor u x y s t) : AgreeFor u x y (timedOut u s) (timedOut u t) := by
  have hev : timeoutEvents u t = timeoutEvents u s := by rw [timeoutEvents, timeoutEvents, h.mAcc, h.txn]
  have hunit : SameUnit u (Machine.timedOut u s) (Machine.timedOut u t) := by cases u <;> exact h.unit
  refine { h with lock := rfl, mTxq := rfl, mAcc := rfl, unit := hunit, evOut := ?_ }
  rw [Machine.timedOut, Machine.timedOut, hev]
  exact h.published _

theorem AgreeFor.enterSleep (h : AgreeFor .poll x y s t) (d : Word16) :
    AgreeFor .poll x y (enterSleep d s) (enterSleep d t) := by
  simp only [Machine.enterSleep, show t.poll = s.poll from h.unit]
  split
  · exact { h with unit := rfl, evOut := h.published _ }
  · exact { h with unit := rfl }

theorem AgreeFor.scAttemptFailed (h : AgreeFor .sc x y s t) :
    AgreeFor .sc x y (scAttemptFailed s) (scAttemptFailed t) := by
  simp only [Machine.scAttemptFailed, show t.sc = s.sc from h.unit]
  split
  · refine { h with unit := rfl, evOut := ?_ }
    simpa using h.published [_, _]
  · split <;> exact { h with unit := rfl }

theorem AgreeFor.nextId (h : AgreeFor .scan x y s t) : AgreeFor .scan x y (nextId s) (nextId t) := by
  simp only [nextId_eq, show t.scan = s.scan from h.unit]
  split
  · exact { h with idSet := rfl, unit := rfl, evOut := h.published _ }
  · split <;> exact { h with unit := rfl }

theorem AgreeFor.scanAttemptFailed (h : AgreeFor .scan x y s t) :
    AgreeFor .scan x y (scanAttemptFailed s) (scanAttemptFailed t) := by
  simp only [scanAttemptFailed_eq, show t.scan = s.scan from h.unit, h.params]
  split
  · exact { h with params := rfl, unit := rfl }
  · exact AgreeFor.nextId { h with params := rfl, unit := rfl }

theorem AgreeFor.deadline (h : AgreeFor u x y s t) : AgreeFor u x y (deadline u s) (deadline u t) := by
  rw [deadline_eq, deadline_eq]
  cases u
  case poll =>
    have hdelay : (Machine.timedOut .poll t).params = (Machine.timedOut .poll s).params := h.params
    rw [afterTimeout, afterTimeout, hdelay]
    exact h.timedOut.enterSleep _
  case sc => exact h.timedOut.scAttemptFailed
  case scan => exact h.timedOut.scanAttemptFailed

end

/-! ## The master's part of a tick that ends a window -/

/-- A timer at its last tick has run out. -/
def zeroTimer (u : MasterUnit) (s : State) : State :=
  match u with
  | .poll => { s with poll := { s.poll with timer := 0 } }
  | .sc => { s with sc := { s.sc with timer := 0 } }
  | .scan => { s with scan := { s.scan with timer := 0 } }

/-- The window of U ends in this tick. -/
def WindowEnds (s : State) (u : MasterUnit) : Prop := inAwait s u = true ∧ unitTimer s u = 1

theorem SameUnit.windowEnds_iff {u : MasterUnit} {s t : State} (h : SameUnit u s t) :
    WindowEnds t u ↔ WindowEnds s u := by
  cases u
  case poll => simp only [WindowEnds, inAwait, unitTimer, show t.poll = s.poll from h]
  case sc => simp only [WindowEnds, inAwait, unitTimer, show t.sc = s.sc from h]
  case scan => simp only [WindowEnds, inAwait, unitTimer, show t.scan = s.scan from h]

theorem saturatingSucc_eq (v : Word16) : saturatingSucc v = BitVec.ofNat 16 (min (v.toNat + 1) 65535) := by
  unfold saturatingSucc
  split <;> bv_omega

/-- In the owner's await window a tick counts (R166). -/
theorem countElapsed_of_await {u : MasterUnit} {s : State} (hlock : s.lock = .held u) (hawait : inAwait s u = true) :
    countElapsed s = { s with txn := { s.txn with
      elapsed := BitVec.ofNat 16 (min (s.txn.elapsed.toNat + 1) 65535) } } := by
  simp [countElapsed, rxOpen, awaiting, hlock, hawait, saturatingSucc_eq]

section
variable {s : State}

theorem pollTick_of_ends (h : WindowEnds s .poll) : pollTick s = deadline .poll (zeroTimer .poll s) := by
  obtain ⟨hst, htimer⟩ := h
  simp only [inAwait, decide_eq_true_eq, unitTimer] at hst htimer
  simp [pollTick, hst, htimer, zeroTimer]

theorem scTick_of_ends (h : WindowEnds s .sc) : scTick s = deadline .sc (zeroTimer .sc s) := by
  obtain ⟨hst, htimer⟩ := h
  simp only [inAwait, decide_eq_true_eq, unitTimer] at hst htimer
  simp [scTick, hst, htimer, zeroTimer]

theorem scanTick_of_ends (h : WindowEnds s .scan) : scanTick s = deadline .scan (zeroTimer .scan s) := by
  obtain ⟨hst, htimer⟩ := h
  simp only [inAwait, decide_eq_true_eq, unitTimer] at hst htimer
  simp [scanTick, hst, htimer, zeroTimer]

/-- Where POLL's window does not end, its part of a tick writes its own registers only. -/
theorem pollTick_of_not_ends (h : ¬ WindowEnds s .poll) : ∃ poll, pollTick s = { s with poll := poll } := by
  unfold pollTick
  split
  case h_1 hst =>
    exact ⟨_, if_neg fun hz => h ⟨decide_eq_true hst, (timer_reaches_zero _).mp hz⟩⟩
  case h_2 => exact ⟨_, rfl⟩
  all_goals exact ⟨s.poll, rfl⟩

theorem scTick_of_not_ends (h : ¬ WindowEnds s .sc) : ∃ sc, scTick s = { s with sc := sc } := by
  unfold scTick
  split
  case h_1 hst =>
    exact ⟨_, if_neg fun hz => h ⟨decide_eq_true hst, (timer_reaches_zero _).mp hz⟩⟩
  case h_2 => exact ⟨_, rfl⟩
  all_goals exact ⟨s.sc, rfl⟩

theorem scanTick_of_not_ends (h : ¬ WindowEnds s .scan) : ∃ scan, scanTick s = { s with scan := scan } := by
  unfold scanTick
  split
  case h_1 hst =>
    exact ⟨_, if_neg fun hz => h ⟨decide_eq_true hst, (timer_reaches_zero _).mp hz⟩⟩
  case h_2 => exact ⟨_, rfl⟩
  case h_3 =>
    unfold scanInterDelayTick
    dsimp only
    split <;> exact ⟨_, rfl⟩
  all_goals exact ⟨s.scan, rfl⟩

theorem pollTick_of_untimed (h : pollTimed s = false) : pollTick s = s := by
  unfold pollTick
  split <;> simp_all [pollTimed]

theorem scTick_of_untimed (h : scTimed s = false) : scTick s = s := by
  unfold scTick
  split <;> simp_all [scTimed]

end

section
variable {u : MasterUnit} {x y : List OutEvent} {s t : State}

theorem AgreeFor.countElapsed (h : AgreeFor u x y s t) (hlock : s.lock = .held u) (hends : WindowEnds s u) :
    AgreeFor u x y (countElapsed s) (countElapsed t) := by
  have hawait := (h.unit.windowEnds_iff.mpr hends).1
  rw [countElapsed_of_await hlock hends.1, countElapsed_of_await (h.lock.trans hlock) hawait, h.txn]
  exact { h with txn := rfl, unit := by cases u <;> exact h.unit }

theorem AgreeFor.zeroTimer (h : AgreeFor u x y s t) : AgreeFor u x y (zeroTimer u s) (zeroTimer u t) := by
  cases u
  case poll =>
    simp only [Machine.zeroTimer, show t.poll = s.poll from h.unit]
    exact { h with unit := rfl }
  case sc =>
    simp only [Machine.zeroTimer, show t.sc = s.sc from h.unit]
    exact { h with unit := rfl }
  case scan =>
    simp only [Machine.zeroTimer, show t.scan = s.scan from h.unit]
    exact { h with unit := rfl }

/-- Another unit's part of the tick, where its window does not end, is nothing to U. -/
theorem AgreeFor.pollTick (h : AgreeFor u x y s t) (hu : .poll ≠ u) (hends : ¬ WindowEnds t .poll) :
    AgreeFor u x y s (pollTick t) := by
  obtain ⟨hsc, hscan⟩ := pollTick_others t
  have hunit := h.unit.trans ((OthersKept.of_poll hsc hscan).unit hu)
  obtain ⟨poll, htick⟩ := pollTick_of_not_ends hends
  rw [htick] at hunit ⊢
  exact { h with unit := hunit }

theorem AgreeFor.scTick (h : AgreeFor u x y s t) (hu : .sc ≠ u) (hends : ¬ WindowEnds t .sc) :
    AgreeFor u x y s (scTick t) := by
  obtain ⟨hpoll, hscan⟩ := scTick_others t
  have hunit := h.unit.trans ((OthersKept.of_sc hpoll hscan).unit hu)
  obtain ⟨sc, htick⟩ := scTick_of_not_ends hends
  rw [htick] at hunit ⊢
  exact { h with unit := hunit }

theorem AgreeFor.scanTick (h : AgreeFor u x y s t) (hu : .scan ≠ u) (hends : ¬ WindowEnds t .scan) :
    AgreeFor u x y s (scanTick t) := by
  obtain ⟨hpoll, hsc⟩ := scanTick_others t
  have hunit := h.unit.trans ((OthersKept.of_scan hpoll hsc).unit hu)
  obtain ⟨scan, htick⟩ := scanTick_of_not_ends hends
  rw [htick] at hunit ⊢
  exact { h with unit := hunit }

@[simp] theorem countElapsed_poll (s : State) : (countElapsed s).poll = s.poll := by
  unfold countElapsed; split <;> rfl

@[simp] theorem countElapsed_sc (s : State) : (countElapsed s).sc = s.sc := by
  unfold countElapsed; split <;> rfl

@[simp] theorem countElapsed_scan (s : State) : (countElapsed s).scan = s.scan := by
  unfold countElapsed; split <;> rfl

theorem countElapsed_windowEnds_iff {v : MasterUnit} : WindowEnds (countElapsed s) v ↔ WindowEnds s v :=
  SameUnit.windowEnds_iff (by cases v <;> simp [SameUnit])

/-- The master's part of a tick in which U's window ends, and no other does, is U's deadline as far as U is
concerned, wherever it comes among the slave ports' parts. -/
theorem AgreeFor.masterTick (h : AgreeFor u x y s t) (hlock : s.lock = .held u) (hends : WindowEnds s u)
    (hothers : ∀ v, v ≠ u → ¬ WindowEnds t v) :
    AgreeFor u x y (Machine.deadline u (Machine.zeroTimer u (Machine.countElapsed s))) (masterTick t) := by
  have hcount := h.countElapsed hlock hends
  have hends' := hcount.unit.windowEnds_iff.mpr (countElapsed_windowEnds_iff.mpr hends)
  have hothers' : ∀ v, v ≠ u → ¬ WindowEnds (Machine.countElapsed t) v := fun v hv =>
    mt countElapsed_windowEnds_iff.mp (hothers v hv)
  rw [Machine.masterTick]
  generalize Machine.countElapsed t = r at hcount hends' hothers'
  obtain ⟨hpsc, hpscan⟩ := pollTick_others r
  obtain ⟨-, hscscan⟩ := scTick_others (Machine.pollTick r)
  have hsc : WindowEnds (Machine.pollTick r) .sc ↔ WindowEnds r .sc := SameUnit.windowEnds_iff (u := .sc) hpsc
  have hscan : WindowEnds (Machine.scTick (Machine.pollTick r)) .scan ↔ WindowEnds r .scan :=
    SameUnit.windowEnds_iff (u := .scan) (hscscan.trans hpscan)
  cases u
  case poll =>
    have hdeadline := hcount.zeroTimer.deadline
    rw [← pollTick_of_ends hends'] at hdeadline
    exact (hdeadline.scTick (by decide) (mt hsc.mp (hothers' _ (by decide)))).scanTick (by decide)
      (mt hscan.mp (hothers' _ (by decide)))
  case sc =>
    have hearlier := hcount.pollTick (by decide) (hothers' _ (by decide))
    have hdeadline := hearlier.zeroTimer.deadline
    rw [← scTick_of_ends (hsc.mpr hends')] at hdeadline
    exact hdeadline.scanTick (by decide) (mt hscan.mp (hothers' _ (by decide)))
  case scan =>
    have hpoll := hcount.pollTick (by decide) (hothers' _ (by decide))
    have hearlier := hpoll.scTick (by decide) (mt hsc.mp (hothers' _ (by decide)))
    rw [scanTick_of_ends (hscan.mpr hends')]
    exact hearlier.zeroTimer.deadline

end

/-! ## The whole tick -/

/-- A tick of which the master's part, wherever it comes, publishes `d`'s events and leaves `d`'s shared registers
(R341): the slave ports add nothing but reports. -/
theorem Ticked.endedAs {u : MasterUnit} {d s t : State} (h : Ticked (List.range (s.slaves.length + 1)) s t)
    (hd : ∀ m, SameMaster s m → AgreeFor u s.evOut m.evOut d (masterTick m)) :
    EndedAs d s t ∧ SameUnit u d t := by
  obtain ⟨m, hsm, hmt, ⟨pre, hpre⟩, ⟨post, hpost⟩, hreports, hquiet⟩ := h.master (by simp)
  have hm := hd m hsm
  obtain ⟨new, hdnew, hmnew⟩ := hm.evOut
  refine ⟨?_, hm.unit.trans (hmt.unit u)⟩
  constructor
  case lock => exact hmt.lock.trans hm.lock
  case mTxq => exact hmt.mTxq.trans hm.mTxq
  case mAcc => exact hmt.mAcc.trans hm.mAcc
  case txn => exact hmt.txn.trans hm.txn
  case idSet => exact hmt.idSet.trans hm.idSet
  case evOut =>
    refine ⟨pre, new, post, hdnew, ?_, ?_⟩
    · rw [← hpost, hmnew, ← hpre]
    · simpa [← hpre, ← hpost] using hreports
  case alone =>
    intro hslaves
    obtain ⟨hbefore, hafter⟩ := hquiet fun p v _ hv => hslaves v (List.mem_of_getElem? hv)
    rw [hafter, hmnew, hbefore, hdnew]

/-- The tick in which U's window ends, and no other, takes U's deadline, TXN.elapsed counted and U's timer at 0
(R166), whatever else runs out in it. -/
theorem onEvent_tick_ends {u : MasterUnit} {s : State} (hlock : s.lock = .held u) (hends : WindowEnds s u)
    (hothers : ∀ v, v ≠ u → ¬ WindowEnds s v) :
    let d := deadline u (zeroTimer u (countElapsed s))
    ∃ t, onEvent .tick s = .next t ∧ EndedAs d s t ∧ SameUnit u d t := by
  obtain ⟨t, ht, hT⟩ := tick_spec s
  refine ⟨t, (onEvent_eq .tick s).trans ht, hT.endedAs fun m hm => ?_⟩
  exact hm.agreeFor.masterTick hlock hends fun v hv => mt (hm.unit v).windowEnds_iff.mp (hothers v hv)

theorem slaveTick_of_untimed {p : Nat} {s : State} {u : Slave} (hu : s.slaves[p]? = some u)
    (h : slvTimed u = false) : slaveTick p s = .next s := by
  rw [slaveTick, withSlave_of_some hu]
  simp_all [slvTimed]

/-- The parts of slave ports where no timer runs do nothing. -/
theorem runTickParts_of_untimed {s : State} (h : ∀ u ∈ s.slaves, slvTimed u = false) {ports : List Nat}
    (hports : ∀ p ∈ ports, p < s.slaves.length) : runTickParts (ports.map (· + 1)) s = .next s := by
  induction ports with
  | nil => rfl
  | cons p ports ih =>
    obtain ⟨hp, hrest⟩ := List.forall_mem_cons.mp hports
    have hpart : slaveTick p s = .next s :=
      slaveTick_of_untimed (List.getElem?_eq_getElem hp) (h _ (List.getElem_mem hp))
    rw [List.map_cons, runTickParts, tickPart, hpart, andThen_next, ih hrest]

/-- Where no slave port's timer runs a tick is the master's part. -/
theorem onEvent_tick_of_untimed {s : State} (h : ∀ u ∈ s.slaves, slvTimed u = false) :
    onEvent .tick s = .next (masterTick s) := by
  have hnone : s.slaves.countP slaveTickShows = 0 := by
    rw [List.countP_eq_zero]
    intro u hu
    have huntimed := h u hu
    simp_all [slvTimed, slaveTickShows]
  have hshows : tickShows s ≤ 1 := by
    rw [tickShows, hnone]
    split <;> decide
  have hslaves : (masterTick s).slaves = s.slaves := (masterTick_frame s).slaves
  rw [onEvent_eq, handle, tick, tickParts, if_pos hshows, if_pos hshows, List.range_succ_eq_map, runTickParts, tickPart,
    andThen_next]
  exact runTickParts_of_untimed (hslaves ▸ h) (by simp [hslaves])

end Sys2Proof.Machine
end

section
/-! SUPPORT. SlaveIdDiscovery (R190 to R198): SCAN, its verdicts and its deadline; and the grants that begin a
transaction (R171, R192, R213). -/

namespace Sys2Proof.Machine

/-! ## The deadline of a probe (R195) -/

/-- SCAN's deadline taken whole: the events, the free lock, and SCAN's four continuations. -/
theorem deadline_scan_eq (s : State) :
    deadline .scan s =
      if s.scan.left ≠ 1 then
        { timedOut .scan s with scan := { s.scan with
            timer := s.params.scanRetrySleep, left := s.scan.left - 1
            state := if s.params.scanRetrySleep = 0 then .lockWait else .retrySleep } }
      else nextId { timedOut .scan s with scan := { s.scan with left := 0 } } := by
  rw [deadline_eq, afterTimeout, scanAttemptFailed_eq]
  rfl

/-- Settles O35: the four continuations by SCAN's two rules; the tick by the parts of the other units, which do nothing
where no timer runs and nothing to SCAN where no other window ends. -/
theorem deadlineOfAProbe : Obligations.DeadlineOfAProbe := by
  intro s id events ended retrySleep
  have hlast : s.lock = .held .scan → s.scan.state = .await →
      zeroTimer .scan (countElapsed s) = { s with
        txn := { s.txn with elapsed := BitVec.ofNat 16 (min (s.txn.elapsed.toNat + 1) 65535) }
        scan := { s.scan with timer := 0 } } := fun hlock hst => by
    rw [countElapsed_of_await hlock (decide_eq_true hst)]
    rfl
  refine ⟨?_, fun hlock hst htimer hpoll hsc hslaves => ?_, fun hlock hst htimer hpoll hsc => ?_⟩
  · rw [deadline_scan_eq, nextId_eq]
    rfl
  · have hends : WindowEnds (countElapsed s) .scan :=
      countElapsed_windowEnds_iff.mpr ⟨decide_eq_true hst, htimer⟩
    have hpoll' : pollTimed (countElapsed s) = false := by simpa [pollTimed] using hpoll
    have hsc' : scTimed (countElapsed s) = false := by simpa [scTimed] using hsc
    rw [onEvent_tick_of_untimed hslaves, ← hlast hlock hst, ← scanTick_of_ends hends, masterTick,
      pollTick_of_untimed hpoll', scTick_of_untimed hsc']
  · rw [← hlast hlock hst]
    obtain ⟨t, ht, hended, hscan⟩ := onEvent_tick_ends hlock ⟨decide_eq_true hst, htimer⟩ fun v hv hends => by
      obtain ⟨hawait, htimer⟩ := hends
      cases v
      case poll => exact hpoll (of_decide_eq_true hawait) htimer
      case sc => exact hsc (of_decide_eq_true hawait) htimer
      case scan => exact hv rfl
    exact ⟨t, ht, hscan, hended⟩

/-! ## The verdicts on a probe (R193, R194) -/

theorem dispatchResponse_txn (p : ParsedResponse) (s : State) : (dispatchResponse p s).txn = s.txn := by
  cases p <;> simp [dispatchResponse]

theorem deliver_of_scan {s : State} (hlock : s.lock = .held .scan) (hst : s.scan.state = .await) (v : Verdict) :
    deliver v s = scanVerdict v s := by
  have hawait : awaiting s = some .scan := by simp [awaiting, hlock, inAwait, hst]
  rw [deliver, hawait]

theorem scanVerdict_of_accepted {p : ParsedResponse} {s : State} (h : scanAccepts s p = true) (w : List Byte) :
    scanVerdict (.ok p w) s = nextId (endTxn .scan w false false (scanRecord (dispatchResponse p s))) := by
  have hacc : scanAccepts (dispatchResponse p s) p = true := by simpa [scanAccepts] using h
  exact if_pos hacc

/-- A parsed frame that does not answer the probe is dispatched, and the window keeps running (R194). -/
theorem scanVerdict_of_not_accepted {p : ParsedResponse} {s : State} (h : scanAccepts s p = false) (w : List Byte) :
    scanVerdict (.ok p w) s = dispatchResponse p s := by
  have hacc : scanAccepts (dispatchResponse p s) p = false := by simpa [scanAccepts] using h
  exact if_neg (by simp [hacc])

/-- The transaction of an accepted probe has ended and its id is recorded; SCAN has not gone on yet (R194). -/
theorem endTxn_scanRecord_eq (p : ParsedResponse) (w : List Byte) (s : State) :
    endTxn .scan w false false (scanRecord (dispatchResponse p s)) =
      { dispatchResponse p s with
        mAcc := [], mTxq := [], lock := .free
        evOut := (dispatchResponse p s).evOut ++
          [.txn .scan (s.txn.req.getD 2 0) s.txn.req w s.txn.elapsed false false]
        scan := { s.scan with result := addMember s.scan.result s.scan.cur.toNat } } := by
  rw [← dispatchResponse_txn p s, ← dispatchResponse_scan p s]
  rfl

/-- Settles O32: by the verdict's kind and whether it answers the probe, then SCAN's three ways to go on. -/
theorem answeredProbeIsRecorded : Obligations.AnsweredProbeIsRecorded := by
  intro s hlock hst
  simp only [deliver_of_scan hlock hst]
  refine ⟨fun rpm alarm w => ?_, fun id rpm w => scanVerdict_of_not_accepted rfl w, fun id rpm alarm w hne => ?_,
    fun e w => rfl⟩
  · have hacc : scanAccepts s (.readRsp (BitVec.ofNat 8 s.scan.cur.toNat) rpm alarm) = true :=
      decide_eq_true (idByte_eq_ofNat _).symm
    rw [scanVerdict_of_accepted hacc, endTxn_scanRecord_eq, nextId_eq]
    simp only [List.append_assoc, List.cons_append, List.nil_append]
    rfl
  · have hid : id ≠ idByte s.scan.cur := fun h => hne (h ▸ toNat_idByte s.scan.cur)
    exact scanVerdict_of_not_accepted (p := .readRsp id rpm alarm) (decide_eq_false hid) w

/-! ## SCAN (R190) -/

/-- Settles O10: an empty range finishes at once, any other waits for the lock. -/
theorem scanClipsItsRange : Obligations.ScanClipsItsRange := by
  intro start stop retries interDelay readTimeout s lo hi latched
  refine ⟨fun hst hempty => ?_, fun hst hrange => ?_, fun hst => if_neg hst⟩
  · exact (if_pos hst).trans (if_pos hempty)
  · refine ((if_pos hst).trans (if_neg (Nat.not_lt.mpr hrange))).trans ?_
    rw [attempts_eq_ofNat]

/-! ## The grants (R171, R192, R213) -/

theorem onEvent_grant_of_enabled {u : MasterUnit} {s : State} (hfree : s.lock = .free)
    (hwaits : waitsForLock s u = true) : onEvent (.grant u) s = .next (grant u s) := by
  rw [onEvent_eq]
  exact if_pos (grantEnabled_iff.mpr ⟨hfree, hwaits⟩)

theorem onEvent_grant_of_not_enabled {u : MasterUnit} {s : State} (h : ¬(s.lock = .free ∧ waitsForLock s u = true)) :
    onEvent (.grant u) s = .refused .notEnabled := by
  rw [onEvent_eq]
  exact if_neg (mt grantEnabled_iff.mp h)

/-- Settles O39: the grant of each waiting unit, and each way of not being enabled. -/
theorem grantsBeginTransactions : Obligations.GrantsBeginTransactions := by
  intro s
  refine ⟨fun hfree hst => ?_, fun hfree hst => ?_, fun h => ?_, fun h => ?_, fun h => ?_⟩
  · rw [onEvent_grant_of_enabled (u := .sc) hfree (decide_eq_true hst), grant, scGrant, scRequest, idByte_eq_ofNat]
    rfl
  · rw [onEvent_grant_of_enabled (u := .scan) hfree (decide_eq_true hst), grant, scanGrant, scanRequest,
      idByte_eq_ofNat]
    rfl
  · refine onEvent_grant_of_not_enabled fun ⟨hfree, hwaits⟩ => ?_
    exact h.elim (· hfree) (· (of_decide_eq_true hwaits))
  · refine onEvent_grant_of_not_enabled fun ⟨hfree, hwaits⟩ => ?_
    exact h.elim (· hfree) (· (of_decide_eq_true hwaits))
  · refine onEvent_grant_of_not_enabled fun ⟨hfree, hwaits⟩ => ?_
    obtain ⟨hidle, hset⟩ := pollWaits_iff.mp hwaits
    exact h.elim (· hfree) (Or.elim · (· hidle) (hset ·))

end Sys2Proof.Machine
end

section
/-! SUPPORT. SetConfirmProtocol (R211 to R216): TRYSET, its verdicts and its deadline. -/

namespace Sys2Proof.Machine

/-! ## TRYSET (R211) -/

/-- A clamped id in the seven bits of a register, as a number. -/
theorem idRegister_clampId_eq_ofNat (id : Byte) :
    idRegister (clampId id) = BitVec.ofNat 7 (min (max id.toNat 1) 64) := by
  rw [idRegister, ← BitVec.ofNat_toNat, toNat_clampId, clamp_eq_min_max _ (by decide)]

theorem execTrySet_of_busy {s : State} (h : s.sc.state ≠ .idle) (id : Byte) (rpm : Word16) (retries : Byte)
    (timeoutMs backoffMs : Word16) :
    execTrySet id rpm retries timeoutMs backoffMs s = .refused (.notAccepted "TRYSET") := if_neg h

/-- Settles O9: an idle SC latches the operands, each clamp as a number; a busy one refuses. -/
theorem trySetLatchesItsOperands : Obligations.TrySetLatchesItsOperands := by
  intro id retries rpm timeoutMs backoffMs s
  refine ⟨fun hidle => ?_, fun hbusy => execTrySet_of_busy hbusy id rpm retries timeoutMs backoffMs⟩
  refine (if_pos hidle).trans ?_
  rw [idRegister_clampId_eq_ofNat, attempts_eq_ofNat]
  rfl

/-! ## The verdicts on an attempt (R212, R215) -/

section
variable {s : State} {p : ParsedResponse}

theorem deliver_of_sc (hlock : s.lock = .held .sc) (hst : s.sc.state = .await) (v : Verdict) :
    deliver v s = scVerdict v s := by
  have hawait : awaiting s = some .sc := by simp [awaiting, hlock, inAwait, hst]
  rw [deliver, hawait]

/-- The confirming response is the TargetAck with SC's id and RPM, and no other (R212). -/
theorem scMatches_iff : scMatches s p = true ↔ p = .ack (BitVec.ofNat 8 s.sc.id.toNat) s.sc.rpm := by
  rw [← idByte_eq_ofNat]
  cases p <;> simp [scMatches]

theorem scMatches_dispatchResponse : scMatches (dispatchResponse p s) p = scMatches s p := by
  cases p <;> simp [scMatches]

/-- The confirming TargetAck ends the transaction and the TRYSET, and the host is told so. -/
theorem scVerdict_of_matches (h : scMatches s p = true) (w : List Byte) :
    scVerdict (.ok p w) s = { dispatchResponse p s with
      mAcc := [], mTxq := [], lock := .free, sc := { s.sc with state := .idle }
      evOut := (dispatchResponse p s).evOut ++
        [.txn .sc (s.txn.req.getD 2 0) s.txn.req w s.txn.elapsed false false,
          .setResult s.sc.id s.sc.rpm true] } := by
  refine (if_pos (scMatches_dispatchResponse.trans h)).trans ?_
  rw [← dispatchResponse_txn p s, ← dispatchResponse_sc p s]
  simp [endTxn, emit, byteAt]

/-- Any other parsed frame is dispatched, and the window keeps running. -/
theorem scVerdict_of_not_matches (h : scMatches s p = false) (w : List Byte) :
    scVerdict (.ok p w) s = dispatchResponse p s :=
  if_neg (by rw [scMatches_dispatchResponse, h]; decide)

end

/-- Settles O31: the verdicts by whether they match; the instruction by the verdict on its frame. -/
theorem matchingAckConfirmsTheSet : Obligations.MatchingAckConfirmsTheSet := by
  intro s hlock hst id hi lo ck row result
  have confirm : ∀ w, deliver (.ok (.ack id s.sc.rpm) w) s =
      { dispatchResponse (.ack id s.sc.rpm) s with
        mAcc := [], mTxq := [], lock := .free, sc := { s.sc with state := .idle }
        evOut := (dispatchResponse (.ack id s.sc.rpm) s).evOut ++ [row w, result] } := fun w =>
    (deliver_of_sc hlock hst _).trans (scVerdict_of_matches (scMatches_iff.mpr rfl) w)
  refine ⟨?instruction, ?parsed, fun e w => deliver_of_sc hlock hst _⟩
  case parsed =>
    intro p w m
    refine ⟨?_, fun hp => ?_⟩
    · rintro rfl
      exact confirm w
    · rw [deliver_of_sc hlock hst]
      exact scVerdict_of_not_matches (Bool.eq_false_iff.mpr (mt scMatches_iff.mp hp)) w
  case instruction =>
    obtain ⟨hexec, -⟩ := responseFramesAreJudged id ck s.sc.rpm 0 s
    rw [if_pos (BitVec.toNat_ofNat _ _), confirm] at hexec
    refine ⟨_, hexec, fun a h1 h64 => readMap_writeMap s.sc.rpm s h1 h64, ?_⟩
    simp [dispatchResponse, hi, lo]

/-! ## The deadline of an attempt (R216) -/

/-- A failed attempt: the last one ends the TRYSET, an earlier one starts the backoff. -/
theorem scAttemptFailed_eq (s : State) :
    scAttemptFailed s =
      if s.sc.left = 1 then
        { s with
          evOut := s.evOut ++ [.setWarning s.sc.id s.sc.rpm, .setResult s.sc.id s.sc.rpm false]
          sc := { s.sc with left := 0, state := .idle } }
      else
        { s with sc := { s.sc with
            timer := s.sc.backoff, left := s.sc.left - 1
            state := if s.sc.backoff = 0 then .lockWait else .backoff } } := by
  unfold scAttemptFailed
  dsimp only
  by_cases hlast : s.sc.left = 1
  · rw [if_pos (sub_eq_zero.mpr hlast), if_pos hlast, sub_eq_zero.mpr hlast]
    simp [raise, emit, Exc.event]
  · rw [if_neg (mt sub_eq_zero.mp hlast), if_neg hlast]
    split <;> rfl

/-- SCAN's part of a tick where its timer does not run. -/
theorem scanTick_of_untimed {s : State} (h : scanTimed s = false) : scanTick s = s := by
  unfold scanTick
  split <;> simp_all [scanTimed]

/-- Settles O34: SC's two continuations; the tick by the parts of the other units, which do nothing where no timer runs
and nothing to SC where no other window ends. -/
theorem deadlineOfASetAttempt : Obligations.DeadlineOfASetAttempt := by
  intro s id events ended
  have hlast : s.lock = .held .sc → s.sc.state = .await →
      zeroTimer .sc (countElapsed s) = { s with
        txn := { s.txn with elapsed := BitVec.ofNat 16 (min (s.txn.elapsed.toNat + 1) 65535) }
        sc := { s.sc with timer := 0 } } := fun hlock hst => by
    rw [countElapsed_of_await hlock (decide_eq_true hst)]
    rfl
  refine ⟨?_, fun hlock hst htimer hpoll hscan hslaves => ?_, fun hlock hst htimer hpoll hscan => ?_⟩
  · rw [deadline_eq, afterTimeout, scAttemptFailed_eq]
    rfl
  · have hends : WindowEnds (countElapsed s) .sc := countElapsed_windowEnds_iff.mpr ⟨decide_eq_true hst, htimer⟩
    have hpoll' : pollTimed (countElapsed s) = false := by simpa [pollTimed] using hpoll
    rw [onEvent_tick_of_untimed hslaves, masterTick, pollTick_of_untimed hpoll', scTick_of_ends hends,
      scanTick_of_untimed, hlast hlock hst]
    simpa [scanTimed, (deadline_others .sc _).2.2, zeroTimer] using hscan
  · rw [← hlast hlock hst]
    obtain ⟨t, ht, hended, hsc⟩ := onEvent_tick_ends hlock ⟨decide_eq_true hst, htimer⟩ fun v hv hends => by
      obtain ⟨hawait, htimer⟩ := hends
      cases v
      case poll => exact hpoll (of_decide_eq_true hawait) htimer
      case scan => exact hscan (of_decide_eq_true hawait) htimer
      case sc => exact hv rfl
    exact ⟨t, ht, hsc, hended⟩

end Sys2Proof.Machine
end

section
/-! SUPPORT. The attempts of a TRYSET (R213, R216, R219): what each event does to the sum of those begun and those
left. -/

namespace Sys2Proof.Machine

/-! ## The sum of the attempts -/

/-- From `s` to `t` a TRYSET goes on with as many attempts begun and left in sum, or it is over and all of them have
been sent. -/
structure BudgetHeld (s t : State) : Prop where
  going : t.sc.state ≠ .idle → attemptBudget t = attemptBudget s
  spent : t.sc.state = .idle → t.sc.sent.toNat = attemptBudget s

/-- From `s` to `t` a TRYSET is confirmed: no attempt is counted, and no failure is published (R215). -/
structure SetConfirmed (s t : State) : Prop where
  sc : t.sc = { s.sc with state := .idle }
  evOut : ∃ new, t.evOut = s.evOut ++ new ∧ ∀ id rpm, .setResult id rpm false ∉ new

/-- What one event makes of a TRYSET in progress: its attempts are counted, or it is confirmed. -/
def SetOutcome (s t : State) : Prop := BudgetHeld s t ∨ SetConfirmed s t

section
variable {s m t : State}

/-- While an attempt runs, SC.left still counts it. -/
theorem attemptBudget_of_running (h : InTransaction s .sc) :
    attemptBudget s = s.sc.sent.toNat + s.sc.left.toNat - 1 := if_pos (inTransaction_sc_iff.mp h)

theorem attemptBudget_of_waiting (h : ¬ InTransaction s .sc) :
    attemptBudget s = s.sc.sent.toNat + s.sc.left.toNat := if_neg (mt inTransaction_sc_iff.mpr h)

theorem sent_le_attemptBudget (hleft : 1 ≤ s.sc.left.toNat) : s.sc.sent.toNat ≤ attemptBudget s := by
  unfold attemptBudget
  split <;> omega

/-- A TRYSET goes on, and no attempt begins or ends. -/
theorem BudgetHeld.of_counters (hb : t.sc.state ≠ .idle) (hin : InTransaction t .sc ↔ InTransaction s .sc)
    (hsent : t.sc.sent = s.sc.sent) (hleft : t.sc.left = s.sc.left) : BudgetHeld s t := by
  refine ⟨fun _ => ?_, fun hidle => absurd hidle hb⟩
  rw [inTransaction_sc_iff, inTransaction_sc_iff] at hin
  simp only [attemptBudget, hin, hsent, hleft]

theorem BudgetHeld.of_sc_eq (hb : s.sc.state ≠ .idle) (h : t.sc = s.sc) : BudgetHeld s t :=
  .of_counters (h ▸ hb) (by simp [h]) (by rw [h]) (by rw [h])

/-- Only SC's registers matter. -/
theorem BudgetHeld.congr (h : BudgetHeld s t) {s' t' : State} (hs : s'.sc = s.sc) (ht : t'.sc = t.sc) :
    BudgetHeld s' t' := by
  have budget : ∀ {a b : State}, a.sc = b.sc → attemptBudget a = attemptBudget b := fun hsc => by
    rw [attemptBudget, attemptBudget, hsc]
  refine ⟨fun hgoing => ?_, fun hidle => ?_⟩
  · rw [budget hs, budget ht]
    exact h.going (ht ▸ hgoing)
  · rw [budget hs, ht]
    exact h.spent (ht ▸ hidle)

/-- A change before the event that neither touches SC nor publishes is none to the TRYSET. -/
theorem SetOutcome.of_before (h : SetOutcome m t) (hsc : m.sc = s.sc) (hev : m.evOut = s.evOut) : SetOutcome s t :=
  h.imp (·.congr hsc.symm rfl) fun hc => ⟨hsc ▸ hc.sc, hev ▸ hc.evOut⟩

theorem BudgetHeld.trans (h : BudgetHeld s m) (hb : m.sc.state ≠ .idle) (k : BudgetHeld m t) : BudgetHeld s t :=
  ⟨fun hgoing => (k.going hgoing).trans (h.going hb), fun hidle => (k.spent hidle).trans (h.going hb)⟩

end

/-! ## An attempt fails -/

section
variable {s : State}

/-- SC.left counts the running attempt until it fails: the sum stays, and after the last one all have been sent. -/
theorem scAttemptFailed_budget (hin : InTransaction s .sc) (hleft : 1 ≤ s.sc.left.toNat) :
    BudgetHeld s (scAttemptFailed s) := by
  have hout := scAttemptFailed_out s
  rw [scAttemptFailed_eq] at hout ⊢
  split
  case isTrue hlast =>
    refine ⟨(absurd rfl ·), fun _ => ?_⟩
    rw [attemptBudget_of_running hin, hlast]
    rfl
  case isFalse hmore =>
    rw [if_neg hmore] at hout
    refine ⟨fun _ => ?_, fun hidle => ?_⟩
    · rw [attemptBudget_of_running hin, attemptBudget_of_waiting hout]
      dsimp only
      bv_omega
    · dsimp only at hidle
      split at hidle <;> cases hidle

theorem deadline_budget (hin : InTransaction s .sc) (hleft : 1 ≤ s.sc.left.toNat) : BudgetHeld s (deadline .sc s) := by
  rw [deadline_eq]
  exact (scAttemptFailed_budget (s := timedOut .sc s) hin hleft).congr rfl rfl

/-! ## The events of the transport -/

theorem openWindow_budget (u : MasterUnit) (hb : s.sc.state ≠ .idle) (hin : u = .sc → InTransaction s .sc)
    (hleft : 1 ≤ s.sc.left.toNat) : BudgetHeld s (openWindow u s) := by
  unfold openWindow
  dsimp only
  set m := enterAwait u { s with mAcc := [], txn := { s.txn with elapsed := 0 } }
  by_cases hu : u = .sc
  · subst hu
    have hawait : InTransaction m .sc := enterAwait_inTransaction .sc _
    have hheld : BudgetHeld s m := .of_counters hawait.sc_busy (iff_of_true hawait (hin rfl)) rfl rfl
    split
    · exact hheld.trans hawait.sc_busy (deadline_budget hawait hleft)
    · exact hheld
  · have hsc : m.sc = s.sc := (enterAwait_others u s).sc hu
    split
    · exact .of_sc_eq hb (((deadline_ended u m).others.sc hu).trans hsc)
    · exact .of_sc_eq hb hsc

theorem masterTxByte_budget (hlock : LockFollowsStates s) (hb : s.sc.state ≠ .idle) (hleft : 1 ≤ s.sc.left.toNat) :
    BudgetHeld s (masterTxByte s) := by
  unfold masterTxByte
  split
  · exact .of_sc_eq hb rfl
  · rename_i b rest hq
    have hsent : BudgetHeld s { s with mTxOut := s.mTxOut ++ [b], mTxq := rest } := .of_sc_eq hb rfl
    dsimp only
    split
    · rename_i u hu
      refine hsent.trans hb (openWindow_budget u hb (fun husc => ?_) hleft)
      exact (hlock .sc).mp (husc ▸ hu)
    · exact hsent

theorem masterFault_budget (hlock : LockFollowsStates s) (hb : s.sc.state ≠ .idle) (hleft : 1 ≤ s.sc.left.toNat) :
    BudgetHeld s (masterFault s) := by
  cases hl : s.lock with
  | free => exact .of_sc_eq hb (congrArg State.sc (masterFault_of_free hl))
  | held u =>
    by_cases hu : u = .sc
    · subst hu
      simp only [masterFault, hl]
      exact (scAttemptFailed_budget (s := endTxn .sc [] false true (raise (.transportFault .m) s))
        ((hlock .sc).mp hl) hleft).congr rfl rfl
    · exact .of_sc_eq hb ((masterFault_ended hl).others.sc hu)

theorem scTick_budget (hb : s.sc.state ≠ .idle) (hleft : 1 ≤ s.sc.left.toNat) : BudgetHeld s (scTick s) := by
  unfold scTick
  split
  case h_1 hst =>
    have hcount : BudgetHeld s { s with sc := { s.sc with timer := s.sc.timer - 1 } } :=
      .of_counters hb (by simp) rfl rfl
    dsimp only
    split
    · exact hcount.trans hb (deadline_budget (by simp [hst]) hleft)
    · exact hcount
  case h_2 hst =>
    refine .of_counters ?_ ?_ rfl rfl
    · simp only [scBackoffTick]
      split <;> decide
    · simp only [scBackoffTick, inTransaction_sc_iff, hst]
      split <;> decide
  all_goals exact .of_sc_eq hb rfl

theorem masterTick_sc (s : State) : (masterTick s).sc = (scTick (pollTick (countElapsed s))).sc :=
  (scanTick_others _).2

theorem masterTick_budget (hb : s.sc.state ≠ .idle) (hleft : 1 ≤ s.sc.left.toNat) : BudgetHeld s (masterTick s) := by
  have hsc : (pollTick (countElapsed s)).sc = s.sc := (pollTick_others _).1.trans (countElapsed_sc s)
  exact (scTick_budget (hsc ▸ hb) (hsc ▸ hleft)).congr hsc.symm (masterTick_sc s)

theorem Ticked.budget {t : State} (h : Ticked (List.range (s.slaves.length + 1)) s t) (hb : s.sc.state ≠ .idle)
    (hleft : 1 ≤ s.sc.left.toNat) : BudgetHeld s t := by
  obtain ⟨m, hsm, hmt, -⟩ := h.master (by simp)
  exact (masterTick_budget (s := m) (hsm.sc ▸ hb) (hsm.sc ▸ hleft)).congr hsm.sc.symm hmt.sc

/-! ## The verdicts -/

theorem scanVerdict_sc (v : Verdict) (s : State) : (scanVerdict v s).sc = s.sc := by
  cases v
  case bad e w => rfl
  case ok p w =>
    cases hacc : scanAccepts s p
    case false => rw [scanVerdict_of_not_accepted hacc, dispatchResponse_sc]
    case true => rw [scanVerdict_of_accepted hacc, nextId_sc, endTxn_scanRecord_eq, dispatchResponse_sc]

/-- What SC publishes with the confirming TargetAck is no failure (R215). -/
theorem scVerdict_confirmed {p : ParsedResponse} (h : scMatches s p = true) (w : List Byte) :
    SetConfirmed s (scVerdict (.ok p w) s) := by
  obtain rfl := scMatches_iff.mp h
  rw [scVerdict_of_matches h]
  refine ⟨rfl, ?_⟩
  simp [dispatchResponse]

theorem deliver_setOutcome (v : Verdict) (hb : s.sc.state ≠ .idle) : SetOutcome s (deliver v s) := by
  unfold deliver
  split
  case h_1 => exact .inl (.of_sc_eq hb rfl)
  case h_2 => exact .inl (.of_sc_eq hb ((pollVerdict_ended v s).others.sc (by decide)))
  case h_4 => exact .inl (.of_sc_eq hb (scanVerdict_sc v s))
  case h_3 =>
    cases v
    case bad e w => exact .inl (.of_sc_eq hb rfl)
    case ok p w =>
      cases hmatch : scMatches s p
      case true => exact .inr (scVerdict_confirmed hmatch w)
      case false =>
        rw [scVerdict_of_not_matches hmatch]
        exact .inl (.of_sc_eq hb (dispatchResponse_sc p s))

/-! ## The host operations and the grants -/

theorem execScan_sc {start stop retries : Byte} {interDelay readTimeout : Word16} {t : State}
    (h : execScan start stop retries interDelay readTimeout s = .next t) : t.sc = s.sc := by
  unfold execScan at h
  dsimp only at h
  split at h
  · split at h <;> cases h <;> rfl
  · cases h

/-- While a TRYSET runs, no host operation touches it (R211). -/
theorem exec_hostOp_sc_of_busy {i : Instr} {t : State} (hi : i.isHostOp = true) (hb : s.sc.state ≠ .idle)
    (h : exec i s = .next t) : t.sc = s.sc := by
  cases hw : writesRegisters i with
  | false => exact (exec_hostOp_kept hi hw h).sc
  | true =>
    cases i
    case scan => exact execScan_sc h
    case trySet => exact absurd ((execTrySet_of_busy hb _ _ _ _ _).symm.trans h) nofun
    case queueSet | setMaxRpm | loadIdSet | setAlarm => cases h; rfl
    case loadRpm =>
      simp only [exec, execLoadRpm] at h
      split at h <;> cases h
      exact writeMap_sc _ _ s
    all_goals cases hw

/-- A grant to SC begins one attempt; the running one stays among those left (R213). -/
theorem scGrant_budget (hst : s.sc.state = .lockWait) (hle : attemptBudget s ≤ 256)
    (hleft : 1 ≤ s.sc.left.toNat) : BudgetHeld s (scGrant s) := by
  have hwaiting := attemptBudget_of_waiting (s := s) (by simp [hst])
  have hrunning := attemptBudget_of_running (s := scGrant s) (by simp [scGrant])
  have hsent : (s.sc.sent + 1).toNat = s.sc.sent.toNat + 1 := by bv_omega
  refine ⟨fun _ => ?_, nofun⟩
  rw [hrunning, hwaiting]
  simp only [scGrant, beginTxn_sc_sc, hsent]
  omega

theorem grant_budget {u : MasterUnit} (hg : grantEnabled s u = true) (hb : s.sc.state ≠ .idle)
    (hle : attemptBudget s ≤ 256) (hleft : 1 ≤ s.sc.left.toNat) : BudgetHeld s (grant u s) := by
  by_cases hu : u = .sc
  · subst hu
    exact scGrant_budget (of_decide_eq_true (grantEnabled_iff.mp hg).2) hle hleft
  · exact .of_sc_eq hb ((grant_others u s).sc hu)

end

/-! ## The steps -/

/-- An event confirms a TRYSET in progress, or counts its attempts. -/
theorem Happened.setOutcome {e : Input} {s t : State} (h : Happened e s t) (hlock : LockFollowsStates s)
    (hb : s.sc.state ≠ .idle) (hle : attemptBudget s ≤ 256) (hleft : 1 ≤ s.sc.left.toNat) :
    SetOutcome s t := by
  cases h with
  | host hd hi he => exact .inl (.of_sc_eq hb (exec_hostOp_sc_of_busy hi hb he))
  | tick hT => exact .inl (hT.budget hb hleft)
  | none => exact .inl (.of_sc_eq hb rfl)
  | received acc ho ha => exact .inl (.of_sc_eq hb rfl)
  | judged v ho => exact (deliver_setOutcome (s := { s with mAcc := [] }) v hb).of_before rfl rfl
  | sent => exact .inl (masterTxByte_budget hlock hb hleft)
  | fault => exact .inl (masterFault_budget hlock hb hleft)
  | granted hg => exact .inl (grant_budget hg hb hle hleft)
  | skipped hs => exact .inl (.of_sc_eq hb (enterSleep_sc _ s))
  | port hp => exact .inl (.of_sc_eq hb hp.1.sc)

/-- Settles O60: what is not confirmed is counted, and where it is confirmed no failure is published. -/
theorem setAttemptsStayWithinTheBudget : Obligations.SetAttemptsStayWithinTheBudget := by
  intro s t hmaster hranges hb hle hstep
  obtain ⟨-, -, -, hleft, -⟩ := hranges.sc hb
  have houtcome : SetOutcome s t := by
    rcases step_cases hstep with ⟨-, -, rfl⟩ | ⟨e, rest, n, -, hH⟩
    · exact .inl (.of_sc_eq hb rfl)
    · exact (hH.setOutcome (hmaster.lock.congr rfl rfl rfl rfl) hb hle hleft).of_before rfl rfl
  rcases houtcome with hheld | hconfirmed
  · exact ⟨hheld.going, fun hidle => ⟨(hheld.spent hidle).le, fun _ _ _ => hheld.spent hidle⟩⟩
  · obtain ⟨hsc, published, hev, hnone⟩ := hconfirmed
    refine ⟨fun hgoing => absurd (by rw [hsc]) hgoing, fun _ => ⟨?_, fun new hnew hfailure => ?_⟩⟩
    · rw [hsc]
      exact sent_le_attemptBudget hleft
    · obtain rfl : published = new := List.append_cancel_left (hev.symm.trans hnew)
      exact absurd hfailure (hnone _ _)

end Sys2Proof.Machine
end

section
/-! SUPPORT. PollingScheduler (R240 to R252): POLL_START and POLL_CANCEL, the selection and its round-robin, the skipped
cycle, the verdict and the deadline that close a cycle; and the timing estimator (R255). -/

namespace Sys2Proof.Machine

/-! ## POLL_START and POLL_CANCEL (R240, R241) -/

section
variable {s : State}

theorem execPollStart_of_running (h : s.poll.state ≠ .cancelled) :
    execPollStart s = .refused (.notAccepted "POLL_START") := if_neg h

theorem execPollCancel_of_cancelled (h : s.poll.state = .cancelled) : execPollCancel s = .next s := by
  rw [execPollCancel, h]

/-- Between two cycles the loop stops at once (R241). -/
theorem execPollCancel_between_cycles (h : s.poll.state = .idle ∨ s.poll.state = .sleeping) :
    execPollCancel s = .next (emit .pollStopped
      { s with poll := { s.poll with cancelReq := false, timer := 0, state := .cancelled } }) := by
  rcases h with hst | hst <;> rw [execPollCancel, hst]

/-- Within a transaction the cancel is only requested (R241). -/
theorem execPollCancel_in_transaction (h : s.poll.state = .transmitting ∨ s.poll.state = .awaitingResponse) :
    execPollCancel s = .next { s with poll := { s.poll with cancelReq := true } } := by
  rcases h with hst | hst <;> rw [execPollCancel, hst]

end

/-- Settles O11: POLL_START by its precondition, POLL_CANCEL by the kind of state it meets. -/
theorem pollStartAndCancel : Obligations.PollStartAndCancel := fun _ =>
  ⟨fun hcancelled => ⟨if_pos hcancelled, execPollCancel_of_cancelled hcancelled⟩, execPollStart_of_running,
    execPollCancel_between_cycles, execPollCancel_in_transaction⟩

/-! ## The skipped cycle (R245) -/

/-- Settles O41: enabled, the skip enters the inter-cycle delay. -/
theorem emptySetSkipsTheCycle : Obligations.EmptySetSkipsTheCycle := by
  intro s
  rw [onEvent_eq]
  refine ⟨fun hidle hempty => if_pos (skipEnabled_iff.mpr ⟨hidle, hempty⟩), fun h => if_neg fun henabled => ?_⟩
  obtain ⟨hidle, hempty⟩ := skipEnabled_iff.mp henabled
  exact h.elim (· hidle) (· hempty)

/-! ## The selection (R243, R244) -/

/-- A frame's id byte in the seven bits of a register, as a number. -/
theorem idRegister_eq_ofNat (b : Byte) : idRegister b = BitVec.ofNat 7 b.toNat := (BitVec.ofNat_toNat 7 b).symm

/-- Settles O40: the grant is enabled, and it is POLL's selection. -/
theorem selectionPicksTheIdAtTheCursor : Obligations.SelectionPicksTheIdAtTheCursor := by
  intro s hfree hidle hset n k f
  have hframe : pollFrame (nth s.idSet (pollIndex s)) s = f := by
    rw [pollFrame, idByte_eq_ofNat]
    rfl
  rw [onEvent_grant_of_enabled hfree (pollWaits_iff.mpr ⟨hidle, hset⟩), grant, pollGrant, hframe, idRegister_eq_ofNat]
  rfl

/-! ## The round-robin (R252) -/

theorem setSize_le (set : IdMask) : setSize set ≤ 64 := by
  rw [setSize, members, List.length_map]
  exact (List.length_filter_le _ _).trans_eq List.length_range

theorem pollGrant_idSet (s : State) : (pollGrant s).idSet = s.idSet := beginTxn_idSet _ _ _

/-- The cursor moves on by one, modulo the set's size; its six bits hold every index. -/
theorem pollGrant_cursor {s : State} (hset : s.idSet ≠ 0) :
    (pollGrant s).poll.cursor.toNat = (s.poll.cursor.toNat + 1) % setSize s.idSet := by
  have hpos : 0 < setSize s.idSet := Nat.pos_of_ne_zero (mt (setSize_eq_zero _).mp hset)
  have hfits : (pollIndex s + 1) % setSize s.idSet < 2 ^ 6 := (Nat.mod_lt _ hpos).trans_le (setSize_le _)
  calc (pollGrant s).poll.cursor.toNat
      = (pollIndex s + 1) % setSize s.idSet := (BitVec.toNat_ofNat _ _).trans (Nat.mod_eq_of_lt hfits)
    _ = (s.poll.cursor.toNat + 1) % setSize s.idSet := Nat.mod_add_mod _ _ _

/-- The selections follow the cursor round the set. -/
theorem selections_eq_map_range (k : Nat) {s : State} (hset : s.idSet ≠ 0) :
    selections k s = (List.range k).map fun j => nth s.idSet ((s.poll.cursor.toNat + j) % setSize s.idSet) := by
  induction k generalizing s with
  | zero => rfl
  | succ k ih =>
    rw [selections, ih (by rwa [pollGrant_idSet]), List.range_succ_eq_map, List.map_cons, List.map_map,
      pollGrant_idSet, pollGrant_cursor hset]
    congr 1
    refine List.map_congr_left fun j _ => ?_
    rw [Nat.mod_add_mod, Function.comp_apply, Nat.succ_eq_add_one, Nat.add_right_comm, Nat.add_assoc]

/-- One round of selections is the list of the members, read from the cursor on and round to it again. -/
theorem selections_setSize {s : State} (hset : s.idSet ≠ 0) :
    selections (setSize s.idSet) s = (members s.idSet).rotate s.poll.cursor.toNat := by
  rw [selections_eq_map_range _ hset]
  refine List.ext_getElem (by simp [setSize]) fun j _ hj => ?_
  have hpos : 0 < setSize s.idSet := Nat.pos_of_ne_zero (mt (setSize_eq_zero _).mp hset)
  have hnth := members_getElem? (Nat.mod_lt (s.poll.cursor.toNat + j) hpos)
  obtain ⟨_, hmember⟩ := List.getElem?_eq_some_iff.mp hnth
  rw [List.getElem_map, List.getElem_range, List.getElem_rotate, ← hmember]
  congr 1
  rw [Nat.add_comm, setSize]

/-- Settles O43: the selections in order, and a round of them as a rotation of the members. -/
theorem roundRobinIsFair : Obligations.RoundRobinIsFair := by
  intro s hset
  refine ⟨fun k => selections_eq_map_range k hset, ?_⟩
  rw [selections_setSize hset]
  exact List.rotate_perm _ _

/-! ## The verdict that closes a cycle (R247) -/

theorem dispatchResponse_params (p : ParsedResponse) (s : State) : (dispatchResponse p s).params = s.params :=
  (dispatchResponse_frame p s).params

/-- What is filed and published of a response does not depend on POLL's registers. -/
theorem dispatchResponse_with_poll (p : ParsedResponse) (s : State) (poll : Poll) :
    dispatchResponse p { s with poll := poll } = { dispatchResponse p s with poll := poll } := by
  cases p <;> simp only [dispatchResponse, writeMap] <;> split <;> rfl

theorem deliver_of_poll {s : State} (hlock : s.lock = .held .poll) (hst : s.poll.state = .awaitingResponse)
    (v : Verdict) : deliver v s = pollVerdict v s := by
  have hawait : awaiting s = some .poll := by simp [awaiting, hlock, inAwait, hst]
  rw [deliver, hawait]

/-- A parsed response is dispatched and logged, and the delay begins; of `Parsing`, passed within the step, nothing is
left. -/
theorem pollVerdict_ok (p : ParsedResponse) (w : List Byte) (s : State) :
    pollVerdict (.ok p w) s = enterSleep s.params.pollDelay { dispatchResponse p s with
      mAcc := [], mTxq := [], lock := .free, poll := s.poll
      evOut := (dispatchResponse p s).evOut ++
        [.txn .poll (s.txn.req.getD 2 0) s.txn.req w s.txn.elapsed false false] } := by
  rw [pollVerdict]
  dsimp only
  rw [dispatchResponse_with_poll, ← dispatchResponse_txn p s, ← dispatchResponse_params p s]
  rfl

/-- A damaged frame is reported and logged, and the delay begins. -/
theorem pollVerdict_bad (e : ExcKind) (w : List Byte) (s : State) :
    pollVerdict (.bad e w) s = enterSleep s.params.pollDelay { s with
      mAcc := [], mTxq := [], lock := .free
      evOut := s.evOut ++
        [.decodeErr (.master .poll) e, .txn .poll (s.txn.req.getD 2 0) s.txn.req w s.txn.elapsed false true] } := by
  rw [List.append_cons]
  rfl

/-- Settles O33: by the verdict's kind; both kinds enter the inter-cycle delay. -/
theorem firstVerdictClosesThePollCycle : Obligations.FirstVerdictClosesThePollCycle := by
  intro v s hlock hst id m ended
  rw [deliver_of_poll hlock hst]
  cases v with
  | ok p w =>
    rw [pollVerdict_ok]
    rfl
  | bad e w =>
    rw [pollVerdict_bad]
    rfl

/-! ## The deadline of a cycle (R248) -/

/-- Settles O36: POLL's three ways to go on; the tick by the parts of the other units, which do nothing where no timer
runs and nothing to POLL where no other window ends. -/
theorem deadlineOfAPollCycle : Obligations.DeadlineOfAPollCycle := by
  intro s id events ended
  have hcounted : s.lock = .held .poll → s.poll.state = .awaitingResponse →
      zeroTimer .poll (countElapsed s) = { s with
        txn := { s.txn with elapsed := BitVec.ofNat 16 (min (s.txn.elapsed.toNat + 1) 65535) }
        poll := { s.poll with timer := 0 } } := fun hlock hst => by
    rw [countElapsed_of_await hlock (decide_eq_true hst)]
    rfl
  refine ⟨?_, fun hlock hst htimer hsc hscan hslaves => ?_, fun hlock hst htimer hsc hscan => ?_⟩
  · rw [deadline_eq, afterTimeout]
    rfl
  · have hends : WindowEnds (countElapsed s) .poll := countElapsed_windowEnds_iff.mpr ⟨decide_eq_true hst, htimer⟩
    obtain ⟨-, hkeepsSc, hkeepsScan⟩ := deadline_others .poll (zeroTimer .poll (countElapsed s))
    have hsc' : scTimed (deadline .poll (zeroTimer .poll (countElapsed s))) = false := by
      rw [scTimed, (hkeepsSc nofun).trans (countElapsed_sc s)]
      exact hsc
    have hscan' : scanTimed (deadline .poll (zeroTimer .poll (countElapsed s))) = false := by
      rw [scanTimed, (hkeepsScan nofun).trans (countElapsed_scan s)]
      exact hscan
    rw [onEvent_tick_of_untimed hslaves, masterTick, pollTick_of_ends hends, scTick_of_untimed hsc',
      scanTick_of_untimed hscan', hcounted hlock hst]
  · rw [← hcounted hlock hst]
    obtain ⟨t, ht, hended, hpoll⟩ := onEvent_tick_ends hlock ⟨decide_eq_true hst, htimer⟩ fun v hv hends => by
      obtain ⟨hawait, htimer⟩ := hends
      cases v
      case sc => exact hsc (of_decide_eq_true hawait) htimer
      case scan => exact hscan (of_decide_eq_true hawait) htimer
      case poll => exact hv rfl
    exact ⟨t, ht, hpoll, hended⟩

/-! ## The estimator (R255) -/

theorem reduceFraction_den_pos (num : Nat) {den : Nat} (h : 0 < den) : 0 < (reduceFraction num den).den :=
  Nat.div_pos (Nat.gcd_le_right num h) (Nat.gcd_pos_of_pos_right num h)

/-- Reducing a fraction keeps its value. -/
theorem reduceFraction_value (num : Nat) {den : Nat} (h : 0 < den) :
    ((reduceFraction num den).num : ℚ) / (reduceFraction num den).den = num / den := by
  have hgcd : ((num.gcd den : Nat) : ℚ) ≠ 0 := Nat.cast_ne_zero.mpr (Nat.gcd_pos_of_pos_right num h).ne'
  rw [reduceFraction, Nat.cast_div (Nat.gcd_dvd_left num den) hgcd, Nat.cast_div (Nat.gcd_dvd_right num den) hgcd,
    div_div_div_cancel_right₀ hgcd]

/-- The common denominator changes nothing in the value of the formula. -/
theorem estimateMs_value {baud : Nat} (slaveCount frameBytes : Nat) {p : Fraction} (hbaud : 0 < baud)
    (hden : 0 < p.den) :
    ((estimateMs baud slaveCount frameBytes p).num : ℚ) / (estimateMs baud slaveCount frameBytes p).den =
      ((frameBytes * 2 * (10000 / (baud : ℚ))) + (p.num : ℚ) / p.den) * slaveCount := by
  have hbaud' : (baud : ℚ) ≠ 0 := Nat.cast_ne_zero.mpr hbaud.ne'
  have hden' : (p.den : ℚ) ≠ 0 := Nat.cast_ne_zero.mpr hden.ne'
  rw [estimateMs, reduceFraction_value _ (Nat.mul_pos hbaud hden)]
  push_cast
  field_simp

/-- Settles O8: the answer is the model's reduced fraction, whose value is the formula's. -/
theorem estimateIsTheExactFormula : Obligations.EstimateIsTheExactFormula := by
  intro baud slaveCount frameBytes p s
  refine ⟨fun hbaud hden => ?_, fun hzero => if_pos (.inl hzero)⟩
  exact ⟨estimateMs baud slaveCount frameBytes p, if_neg (not_or.mpr ⟨hbaud.ne', hden.ne'⟩),
    reduceFraction_den_pos _ (Nat.mul_pos hbaud hden), estimateMs_value slaveCount frameBytes hbaud hden⟩

end Sys2Proof.Machine
end

section
/-! SUPPORT. The slave units in order (R282 to R285, R290, R317, R318): what keeps every unit in order, and that every
event does. -/

namespace Sys2Proof.Machine

/-! ## The units in order -/

section
variable {s t : State}

theorem SlavesInv.of_slaves_eq (h : SlavesInv s) (hslaves : t.slaves = s.slaves) : SlavesInv t := by
  rw [SlavesInv, hslaves]
  exact h

theorem SlavesInv.setSlave {p : Nat} {v : Slave} (h : SlavesInv s) (hv : SlaveOk v) :
    SlavesInv (setSlave p v s) := fun w hw => by
  obtain rfl | hw := mem_setSlave hw
  · exact hv
  · exact h w hw

/-- The units are looked at port by port. -/
theorem slavesInv_iff : SlavesInv s ↔ ∀ (p : Nat) (u : Slave), s.slaves[p]? = some u → SlaveOk u := by
  refine ⟨fun h p u hu => h u (List.mem_of_getElem? hu), fun h u hu => ?_⟩
  obtain ⟨p, hp⟩ := List.mem_iff_getElem?.mp hu
  exact h p u hp

theorem PortMoved.slavesInv {p : Nat} (hmoved : PortMoved p s t) (h : SlavesInv s) : SlavesInv t := by
  obtain ⟨hframe, u, v, hu, hv, huv⟩ := hmoved
  refine slavesInv_iff.mpr fun q w hw => ?_
  by_cases hq : q = p
  · subst hq
    cases hv.symm.trans hw
    exact huv.ok (slavesInv_iff.mp h q u hu)
  · rw [hframe.others q hq] at hw
    exact slavesInv_iff.mp h q w hw

theorem Ticked.slavesInv {parts : List Nat} (hticked : Ticked parts s t) (h : SlavesInv s) : SlavesInv t := by
  refine slavesInv_iff.mpr fun p v hv => ?_
  have hp : p < s.slaves.length := hticked.ports ▸ (List.getElem?_eq_some_iff.mp hv).1
  have hu := List.getElem?_eq_getElem hp
  by_cases hpart : p + 1 ∈ parts
  · obtain ⟨w, hw, huw⟩ := hticked.slaves p _ hpart hu
    cases hw.symm.trans hv
    exact huw.moved.ok (slavesInv_iff.mp h p _ hu)
  · rw [hticked.others p hpart] at hv
    exact slavesInv_iff.mp h p v hv

/-! ## The host operations -/

theorem stopSlave_slavesInv (p : Nat) (u : Slave) (h : SlavesInv s) : SlavesInv (stopSlave p u s) :=
  h.setSlave (SlaveOk.of_stopped rfl rfl rfl)

/-- A listener just started seeks with nothing buffered (R317). -/
theorem execSlaveStart_slavesInv {port : Nat} (he : execSlaveStart port s = .next t) (h : SlavesInv s) :
    SlavesInv t := by
  obtain ⟨u, hu, he⟩ := withSlave_eq_next.mp he
  split at he
  · cases he
    refine h.setSlave ?_
    constructor <;> simp
  · cases he

/-- A listener asked to stop stops at once, or is only marked while its response leaves (R318). -/
theorem execSlaveStop_slavesInv {port : Nat} (he : execSlaveStop port s = .next t) (h : SlavesInv s) :
    SlavesInv t := by
  obtain ⟨u, hu, he⟩ := withSlave_eq_next.mp he
  have hok : SlaveOk u := slavesInv_iff.mp h port u hu
  cases hst : u.state <;> rw [hst] at he
  case stopped | validating =>
    cases he
    exact h
  case seeking | collecting | paused =>
    cases he
    exact stopSlave_slavesInv port u h
  case dispatching =>
    cases hph : u.phase <;> rw [hph] at he <;> cases he
    case delay => exact stopSlave_slavesInv port u h
    case send =>
      have hsending := hok.sending
      rw [hst, hph] at hsending
      exact h.setSlave ⟨nofun, nofun, nofun, nofun, hsending⟩

/-- Every host operation but SLAVE_START and SLAVE_STOP leaves the slave units alone. -/
theorem exec_hostOp_slaves {i : Instr} (hi : i.isHostOp = true) (hstart : ∀ p, i ≠ .slaveStart p)
    (hstop : ∀ p, i ≠ .slaveStop p) (he : exec i s = .next t) : t.slaves = s.slaves := by
  cases i
  case reqRead | reqSet | rspAck | rspRead => cases hi
  case slaveStart p => exact absurd rfl (hstart p)
  case slaveStop p => exact absurd rfl (hstop p)
  case encodeRequest | encodeTargetAck | encodeReadRsp | alarmDecode | alarmDescribe | alarmHasFault
      | alarmIsRemote | queueSet | setMaxRpm | loadIdSet | setAlarm =>
    cases he
    rfl
  case scan =>
    simp only [exec, execScan] at he
    split at he
    · split at he
      · cases he
        exact (finishScan_frame _).slaves
      · cases he
        rfl
    · cases he
  case pollCancel =>
    simp only [exec, execPollCancel] at he
    cases hst : s.poll.state <;> rw [hst] at he <;> cases he <;> rfl
  case loadRpm =>
    simp only [exec, execLoadRpm] at he
    split at he <;> cases he
    exact writeMap_slaves _ _ s
  case decodeResponse | trySet | pollStart | estimate | readRpm =>
    simp only [exec, execDecodeResponse, execTrySet, execPollStart, execEstimate, execReadRpm] at he
    split at he <;> cases he <;> rfl

theorem exec_hostOp_slavesInv {i : Instr} (hi : i.isHostOp = true) (he : exec i s = .next t) (h : SlavesInv s) :
    SlavesInv t := by
  cases i
  case slaveStart p => exact execSlaveStart_slavesInv he h
  case slaveStop p => exact execSlaveStop_slavesInv he h
  all_goals exact h.of_slaves_eq (exec_hostOp_slaves hi nofun nofun he)

/-! ## The events -/

theorem Happened.slavesInv {e : Input} (hh : Happened e s t) (h : SlavesInv s) : SlavesInv t := by
  cases hh with
  | host hd hi he => exact exec_hostOp_slavesInv hi he h
  | tick ht => exact ht.slavesInv h
  | none => exact h
  | received acc ho ha => exact h.of_slaves_eq rfl
  | judged v ho => exact h.of_slaves_eq (deliver_frame v _).slaves
  | sent => exact h.of_slaves_eq (masterTxByte_frame s).slaves
  | fault => exact h.of_slaves_eq (masterFault_frame s).slaves
  | granted hg => exact h.of_slaves_eq (grant_frame _ s).slaves
  | skipped hs => exact h.of_slaves_eq (enterSleep_frame _ s).slaves
  | port hp => exact hp.slavesInv h

end

/-- Settles O56: by what a step can do; only the events of a slave port, the tick and two host operations touch a unit.
-/
theorem stepKeepsSlavesInOrder : Obligations.StepKeepsSlavesInOrder := by
  intro s t h hstep
  rcases step_cases hstep with ⟨-, -, rfl⟩ | ⟨e, rest, n, -, hH⟩
  · exact h
  · exact hH.slavesInv (h.of_slaves_eq rfl)

end Sys2Proof.Machine
end

section
/-! SUPPORT. The request window (R128, R285 to R289): its tests as numbers, what a dispatched Set makes of the state and
of the unit, and the two request instructions. -/

namespace Sys2Proof.Machine

/-! ## The tests of a window (R128) -/

theorem eq_requestSum_iff (id cmd d1 d2 ck : Byte) : ck = sum8 [reqMagic0, reqMagic1, id, cmd, d1, d2] ↔
    ck.toNat = (0x49 + 0x53 + id.toNat + cmd.toNat + d1.toNat + d2.toNat) % 256 := by
  rw [eq_sum8_iff]
  simp [← Nat.add_assoc]

theorem idInRange_eq_false_iff (id : Byte) : idInRange id = false ↔ id.toNat = 0 ∨ 64 < id.toNat := by
  rw [← Bool.not_eq_true, idInRange_iff]
  omega

/-- A window of seven bytes behind the magic is tested in the order of R128. -/
theorem decodeRequest_window (id cmd d1 d2 ck : Byte) :
    decodeRequest [reqMagic0, reqMagic1, id, cmd, d1, d2, ck] =
      if ck.toNat = (0x49 + 0x53 + id.toNat + cmd.toNat + d1.toNat + d2.toNat) % 256 then
        if id.toNat = 0 ∨ 64 < id.toNat then .error .idOutOfRange
        else if cmd = cmdSet then .ok (.set id (join16 d1 d2))
        else if cmd = cmdRead then .ok (.read id)
        else .error .unknownCommand
      else .error .checksumMismatch := by
  rw [← if_congr (eq_requestSum_iff id cmd d1 d2 ck) rfl rfl, ← if_congr (idInRange_eq_false_iff id) rfl rfl,
    ← ite_not]
  rfl

/-- The window of a Read request (R91). -/
theorem decodeRequest_reqRead (id d1 d2 ck : Byte) :
    decodeRequest [reqMagic0, reqMagic1, id, cmdRead, d1, d2, ck] =
      if ck.toNat = (0x49 + 0x53 + id.toNat + 0x05 + d1.toNat + d2.toNat) % 256 then
        if id.toNat = 0 ∨ 64 < id.toNat then .error .idOutOfRange else .ok (.read id)
      else .error .checksumMismatch :=
  decodeRequest_window id cmdRead d1 d2 ck

/-- The window of a Set request (R91): the RPM high byte first. -/
theorem decodeRequest_reqSet (id ck : Byte) (rpm : Word16) :
    decodeRequest [reqMagic0, reqMagic1, id, cmdSet, hi8 rpm, lo8 rpm, ck] =
      if ck.toNat = (0x49 + 0x53 + id.toNat + 0x06 + rpm.toNat / 256 + rpm.toNat % 256) % 256 then
        if id.toNat = 0 ∨ 64 < id.toNat then .error .idOutOfRange else .ok (.set id rpm)
      else .error .checksumMismatch := by
  rw [decodeRequest_window, if_pos rfl, toNat_hi8, toNat_lo8, join16_hi8_lo8]
  rfl

/-- A Set request with its checksum and an id of the map is valid (R128). -/
theorem decodeRequest_validSet {id : Byte} (rpm : Word16) (h1 : 1 ≤ id.toNat) (h64 : id.toNat ≤ 64) :
    decodeRequest [reqMagic0, reqMagic1, id, cmdSet, hi8 rpm, lo8 rpm,
      BitVec.ofNat 8 (0x49 + 0x53 + id.toNat + 0x06 + rpm.toNat / 256 + rpm.toNat % 256)] = .ok (.set id rpm) := by
  rw [decodeRequest_reqSet, if_pos (BitVec.toNat_ofNat _ _), if_neg (by omega)]

/-- A Read request with its checksum and an id of the map is valid, whatever its data bytes (R128). -/
theorem decodeRequest_validRead {id : Byte} (d1 d2 : Byte) (h1 : 1 ≤ id.toNat) (h64 : id.toNat ≤ 64) :
    decodeRequest [reqMagic0, reqMagic1, id, cmdRead, d1, d2,
      BitVec.ofNat 8 (0x49 + 0x53 + id.toNat + 0x05 + d1.toNat + d2.toNat)] = .ok (.read id) := by
  rw [decodeRequest_reqRead, if_pos (BitVec.toNat_ofNat _ _), if_neg (by omega)]

/-! ## Validation and dispatch (R285) -/

section
variable {p : Nat} {u : Slave} {f : List Byte} {s : State}

theorem validateAndDispatch_of_error {e : ExcKind} (h : decodeRequest f = .error e) :
    validateAndDispatch p u f s = rejectWindow p u e s := by
  rw [validateAndDispatch, h]

theorem validateAndDispatch_of_read {id : Byte} (h : decodeRequest f = .ok (.read id)) :
    validateAndDispatch p u f s = dispatchRead p u id s := by
  rw [validateAndDispatch, h]

theorem validateAndDispatch_of_set {id : Byte} {rpm : Word16} (h : decodeRequest f = .ok (.set id rpm)) :
    validateAndDispatch p u f s = dispatchSet p u id rpm s := by
  rw [validateAndDispatch, h]

end

/-! ## A Set is dispatched (R287, R288) -/

/-- The unit that has taken a Set request for which the delay `d` is drawn. -/
def takeSet (id : Byte) (rpm d : Word16) (u : Slave) : Slave :=
  let v := { u with state := .dispatching, id := id, cmd := cmdSet, rpm := rpm }
  if d = 0 then sendTargetAck v else { v with phase := .delay, timer := d }

/-- The state in which a Set request is filed and published, and its delay drawn. -/
def fileSet (id : Byte) (rpm : Word16) (s : State) : State :=
  afterDraw (emit (.sReq id cmdSet rpm) (writeMap id.toNat rpm s))

/-- A draw depends on the bounds, the delays the environment gave and the free values used. -/
theorem drawDelay_congr {s t : State} (hparams : t.params = s.params) (hdraws : t.draws = s.draws)
    (hfree : t.freeCount = s.freeCount) : drawDelay t = drawDelay s := by
  rw [drawDelay, drawDelay, hparams, hdraws, hfree]

theorem dispatchSet_eq (p : Nat) (u : Slave) (id : Byte) (rpm : Word16) (s : State) :
    dispatchSet p u id rpm s = setSlave p (takeSet id rpm (drawDelay s) u) (fileSet id rpm s) := by
  have hdraw : drawDelay (emit (.sReq id cmdSet rpm) (writeMap id.toNat rpm s)) = drawDelay s :=
    drawDelay_congr (by simp) (by simp) (by simp)
  rw [dispatchSet, hdraw, takeSet]
  split <;> rfl

/-- A draw uses up a delay of the environment or a free value, and changes nothing else. -/
theorem afterDraw_rest (s : State) : { afterDraw s with draws := s.draws, freeCount := s.freeCount } = s := by
  unfold afterDraw
  split <;> rfl

/-- Filing a Set changes the map, EVOUT and the counters of the draws. -/
theorem fileSet_rest (id : Byte) (rpm : Word16) (s : State) :
    { fileSet id rpm s with rpmMap := s.rpmMap, draws := s.draws, freeCount := s.freeCount } =
      { s with evOut := s.evOut ++ [.sReq id cmdSet rpm] } := by
  have hdraw := afterDraw_rest (emit (.sReq id cmdSet rpm) (writeMap id.toNat rpm s))
  simp only [emit_draws, emit_freeCount, writeMap_draws, writeMap_freeCount] at hdraw
  rw [← emit_writeMap_rest, ← hdraw]
  rfl

theorem fileSet_evOut (id : Byte) (rpm : Word16) (s : State) :
    (fileSet id rpm s).evOut = s.evOut ++ [.sReq id cmdSet rpm] := by
  simp [fileSet]

theorem fileSet_slaves (id : Byte) (rpm : Word16) (s : State) : (fileSet id rpm s).slaves = s.slaves := by
  simp [fileSet]

theorem fileSet_draws (id : Byte) (rpm : Word16) (s : State) : (fileSet id rpm s).draws = s.draws.tail := by
  simp [fileSet]

theorem readMap_fileSet (id : Byte) (rpm : Word16) (s : State) {a : Nat} (h1 : 1 ≤ a) (h64 : a ≤ 64) :
    readMap (fileSet id rpm s) a = if a = id.toNat then rpm else readMap s a := by
  rw [← readMap_writeMap rpm s h1 h64]
  exact readMap_congr (afterDraw_rpmMap _) a

section
variable (id : Byte) (rpm : Word16) (u : Slave)

/-- What a unit that took a Set holds, whether it delays or sends (R287). -/
theorem takeSet_latches (d : Word16) : (takeSet id rpm d u).state = .dispatching ∧ (takeSet id rpm d u).id = id ∧
    (takeSet id rpm d u).cmd = cmdSet ∧ (takeSet id rpm d u).rpm = rpm ∧ (takeSet id rpm d u).acc = u.acc ∧
    (takeSet id rpm d u).txOut = u.txOut ∧ (takeSet id rpm d u).cancelReq = u.cancelReq := by
  unfold takeSet
  split <;> exact ⟨rfl, rfl, rfl, rfl, rfl, rfl, rfl⟩

/-- A Set request writes the unit's state, its latches, its timer and its queue, and no other register. -/
theorem takeSet_rest (d : Word16) :
    { takeSet id rpm d u with state := u.state, id := u.id, cmd := u.cmd, rpm := u.rpm, phase := u.phase,
                              timer := u.timer, txq := u.txq } = u := by
  unfold takeSet
  split <;> rfl

theorem takeSet_zero : takeSet id rpm 0 u = { u with
    state := .dispatching, id := id, cmd := cmdSet, rpm := rpm
    txq := targetAckFrame id rpm, phase := .send } := rfl

theorem takeSet_delay {d : Word16} (hd : d ≠ 0) : takeSet id rpm d u = { u with
    state := .dispatching, id := id, cmd := cmdSet, rpm := rpm, phase := .delay, timer := d } :=
  if_neg hd

end

/-- A delay within the bounds is not changed by clamping (R288). -/
theorem clampDelay_of_bounds {params : Params} {d : Word16} (hmin : params.slaveDelayMin.toNat ≤ d.toNat)
    (hmax : d.toNat ≤ params.slaveDelayMax.toNat) : clampDelay params d = d := by
  rw [clampDelay, clamp, if_neg hmin.not_gt, if_neg hmax.not_gt, BitVec.ofNat_toNat, BitVec.setWidth_eq]

/-- A delay within the bounds that the environment gives is the one drawn (R288). -/
theorem drawDelay_of_given {s : State} {d : Word16} {rest : List Word16} (h : s.draws = d :: rest)
    (hmin : s.params.slaveDelayMin.toNat ≤ d.toNat) (hmax : d.toNat ≤ s.params.slaveDelayMax.toNat) :
    drawDelay s = d := by
  rw [drawDelay, h]
  exact clampDelay_of_bounds hmin hmax

/-! ## The request instructions -/

section
variable {s : State} {u : Slave}

theorem exec_reqRead (hu : s.slaves[s.activePort]? = some u) (id d1 d2 ck : Byte) :
    exec (.reqRead id d1 d2 ck) s =
      .next (validateAndDispatch s.activePort u [reqMagic0, reqMagic1, id, cmdRead, d1, d2, ck] s) :=
  withSlave_of_some hu _

theorem exec_reqSet (hu : s.slaves[s.activePort]? = some u) (id : Byte) (rpm : Word16) (ck : Byte) :
    exec (.reqSet id rpm ck) s =
      .next (validateAndDispatch s.activePort u [reqMagic0, reqMagic1, id, cmdSet, hi8 rpm, lo8 rpm, ck] s) :=
  withSlave_of_some hu _

/-- A valid Set request files the Set and leaves the unit with it (R287, R288). -/
theorem exec_validSet (hu : s.slaves[s.activePort]? = some u) {id : Byte} (rpm : Word16) (h1 : 1 ≤ id.toNat)
    (h64 : id.toNat ≤ 64) :
    exec (.reqSet id rpm
      (BitVec.ofNat 8 (0x49 + 0x53 + id.toNat + 0x06 + rpm.toNat / 256 + rpm.toNat % 256))) s =
        .next (setSlave s.activePort (takeSet id rpm (drawDelay s) u) (fileSet id rpm s)) := by
  rw [exec_reqSet hu, validateAndDispatch_of_set (decodeRequest_validSet rpm h1 h64), dispatchSet_eq]

end

/-- Settles O17: the state after the filing and the unit that took the Set. -/
theorem setRequestIsLatchedAndFiled : Obligations.SetRequestIsLatchedAndFiled := by
  intro id rpm u s hu h1 h64
  obtain ⟨hstate, hid, hcmd, hrpm, -⟩ := takeSet_latches id rpm u (drawDelay s)
  refine ⟨_, takeSet id rpm (drawDelay s) u, exec_validSet hu rpm h1 h64, fun a => readMap_fileSet id rpm s,
    fileSet_evOut id rpm s, ?_, hstate, hid, hcmd, hrpm, takeSet_rest id rpm u _, ?_⟩
  · rw [setSlave_slaves, fileSet_slaves]
  · exact congrArg (fun t => { t with evOut := s.evOut, slaves := s.slaves }) (fileSet_rest id rpm s)

/-- Settles O19: the window holds, so the Read is dispatched. -/
theorem readRequestIsAnsweredAtOnce : Obligations.ReadRequestIsAnsweredAtOnce := by
  intro id data1 data2 u s hu h1 h64
  rw [exec_reqRead hu, validateAndDispatch_of_read (decodeRequest_validRead data1 data2 h1 h64)]
  rfl

/-! ## The delay of an acknowledgment (R288) -/

/-- What the tick makes of a unit, whatever else happens in it (R341). -/
theorem onEvent_tick_unit {p : Nat} {u : Slave} {s : State} (hu : s.slaves[p]? = some u) :
    ∃ t v, onEvent .tick s = .next t ∧ t.slaves[p]? = some v ∧ SlaveTicked u v := by
  obtain ⟨t, ht, hticked⟩ := tick_spec s
  have hp : p < s.slaves.length := (List.getElem?_eq_some_iff.mp hu).1
  obtain ⟨v, hv, huv⟩ := hticked.slaves p u (by simpa using hp) hu
  exact ⟨t, v, (onEvent_eq .tick s).trans ht, hv, huv⟩

/-- A delaying unit counts down, and sends its acknowledgment when the delay has run (R288). -/
theorem SlaveTicked.of_delay {u v : Slave} (h : SlaveTicked u v) (hst : u.state = .dispatching)
    (hph : u.phase = .delay) : v = if u.timer = 1
      then { u with timer := 0, txq := targetAckFrame u.id u.rpm, phase := .send }
      else { u with timer := u.timer - 1 } := by
  rcases h with ⟨-, -, htimer, rfl⟩ | ⟨-, -, htimer, rfl⟩ | ⟨hpause, -⟩ | ⟨hpause, -⟩ |
    ⟨huntimed, -⟩
  · rw [if_pos htimer]
    rfl
  · rw [if_neg htimer]
  · exact absurd (hst.symm.trans hpause) nofun
  · exact absurd (hst.symm.trans hpause) nofun
  · simp [slvTimed, hst, hph] at huntimed

/-- Settles O18: the delay is the drawn one; the tick by what it makes of a delaying unit. -/
theorem setIsAcknowledgedAfterTheDelay : Obligations.SetIsAcknowledgedAfterTheDelay := by
  refine ⟨fun id rpm u s hu h1 h64 hbounds => ?_, fun p u s hu hst hph => ?_⟩
  · obtain ⟨hmin, hmax⟩ := drawDelay_bounds s hbounds
    refine ⟨_, takeSet id rpm (drawDelay s) u, drawDelay s, exec_validSet hu rpm h1 h64,
      getElem?_setSlave_self _ ((fileSet_slaves id rpm s).symm ▸ hu), (takeSet_latches id rpm u _).1, hmin, hmax,
      fun hd => ?_, fun hd => ?_, fun e rest hdraws => ⟨?_, drawDelay_of_given hdraws⟩⟩
    · rw [hd, takeSet_zero]
      exact ⟨rfl, rfl, rfl⟩
    · rw [takeSet_delay id rpm u hd]
      exact ⟨rfl, rfl, rfl⟩
    · rw [setSlave_draws, fileSet_draws, hdraws]
      rfl
  · obtain ⟨t, v, ht, hv, huv⟩ := onEvent_tick_unit hu
    exact ⟨t, ht, hv.trans (congrArg some (huv.of_delay hst hph))⟩

end Sys2Proof.Machine
end

section
/-! SUPPORT. The slave assembler (R281 to R286): one rule for each thing `assemble()` can meet in the buffer, and the
bytes of a request as they arrive. -/

namespace Sys2Proof.Machine

/-! ## The rules of `assemble()` -/

section
variable {p : Nat} {u : Slave} {s : State}

theorem seek_of_seeking (hst : u.state = .seeking) : seek u = { u with
    acc := resync reqMagic0 reqMagic1 u.acc
    state := if (resync reqMagic0 reqMagic1 u.acc).length < 2 then .seeking else .collecting } :=
  if_pos hst

theorem seek_of_collecting (hst : u.state = .collecting) : seek u = u :=
  if_neg (by simp [hst])

/-- Any fuel above the bytes of the buffer runs `assemble()`. -/
theorem assemble_eq_fuel (hu : s.slaves[p]? = some u) {fuel : Nat} (hfuel : u.acc.length < fuel) :
    assemble p s = assembleFuel p fuel s := by
  rw [assemble, withSlave_of_some hu]
  exact assembleFuel_enough p _ _ s u hu (Nat.lt_succ_self _) hfuel

/-- Only what seeking makes of the unit matters to `assemble()`. -/
theorem assemble_congr_seek {v : Slave} (hu : s.slaves[p]? = some u) (hseek : seek v = seek u) :
    assemble p (setSlave p v s) = assemble p s := by
  have hv := getElem?_setSlave_self v hu
  have hfuel : u.acc.length < max u.acc.length v.acc.length + 1 := by omega
  have hfuel' : v.acc.length < max u.acc.length v.acc.length + 1 := by omega
  rw [assemble_eq_fuel hu hfuel, assemble_eq_fuel hv hfuel', assembleFuel, assembleFuel, withSlave_of_some hu,
    withSlave_of_some hv, hseek]
  simp only [setSlave_setSlave]

/-- A unit with less than a window waits, the bytes before the magic dropped if it was seeking (R282, R283). -/
theorem assemble_of_waiting (hu : s.slaves[p]? = some u)
    (hwait : (seek u).state ≠ .collecting ∨ (seek u).acc.length < reqLen) :
    assemble p s = .next (setSlave p (seek u) s) := by
  rw [assemble, withSlave_of_some hu, assembleFuel, withSlave_of_some hu]
  exact if_neg (by rw [not_and_or, Nat.not_le]; exact hwait)

/-- A seeking unit that finds no magic waits (R283). -/
theorem assemble_of_no_magic (hu : s.slaves[p]? = some u) (hst : u.state = .seeking)
    (hshort : (resync reqMagic0 reqMagic1 u.acc).length < 2) :
    assemble p s = .next (setSlave p { u with acc := resync reqMagic0 reqMagic1 u.acc } s) := by
  have hseek : seek u = { u with acc := resync reqMagic0 reqMagic1 u.acc } := by
    rw [seek_of_seeking hst, if_pos hshort, ← hst]
  rw [assemble_of_waiting hu (.inl (by simp [hseek, hst])), hseek]

/-- A seeking unit that finds the magic goes on as a collecting one (R283). -/
theorem assemble_of_magic (hu : s.slaves[p]? = some u) (hst : u.state = .seeking)
    (hfound : 2 ≤ (resync reqMagic0 reqMagic1 u.acc).length) :
    assemble p s =
      assemble p (setSlave p { u with acc := resync reqMagic0 reqMagic1 u.acc, state := .collecting } s) := by
  refine (assemble_congr_seek hu ?_).symm
  rw [seek_of_collecting rfl, seek_of_seeking hst, if_neg hfound.not_gt]

/-- A collecting unit with less than a window waits (R282). -/
theorem assemble_of_partial (hu : s.slaves[p]? = some u) (hst : u.state = .collecting)
    (hshort : u.acc.length < reqLen) : assemble p s = .next s := by
  have hseek := seek_of_collecting hst
  rw [assemble_of_waiting hu (.inr (by rwa [hseek])), hseek, setSlave_self hu]

/-- The state in which a window has been taken from the front of S_ACC and is validated (R285). -/
def takeWindow (p : Nat) (u : Slave) (rest : List Byte) (s : State) : State :=
  { setSlave p { u with state := .validating, acc := rest } s with activePort := p }

/-- The state in which that window has been dropped (R286). -/
def dropWindow (p : Nat) (u : Slave) (rest : List Byte) (e : ExcKind) (s : State) : State :=
  { s with
    slaves := s.slaves.set p { u with state := .seeking, acc := rest }
    evOut := s.evOut ++ [.decodeErr .slv e]
    activePort := p }

theorem rejectWindow_takeWindow (rest : List Byte) (e : ExcKind) :
    rejectWindow p { u with state := .validating, acc := rest } e (takeWindow p u rest s) =
      dropWindow p u rest e s := by
  simp [rejectWindow, takeWindow, dropWindow, setSlave, raise, emit, Exc.event]

/-- A collecting unit takes the window, and goes on with the bytes behind it if it seeks again (R285). -/
theorem assemble_of_window {id cmd d1 d2 ck : Byte} {rest : List Byte} (hu : s.slaves[p]? = some u)
    (hst : u.state = .collecting) (hacc : u.acc = reqMagic0 :: reqMagic1 :: id :: cmd :: d1 :: d2 :: ck :: rest) :
    let t := validateAndDispatch p { u with state := .validating, acc := rest }
      [reqMagic0, reqMagic1, id, cmd, d1, d2, ck] (takeWindow p u rest s)
    assemble p s = withSlave p t fun v => if v.state = .seeking then assemble p t else .next t := by
  intro t
  have hu1 := getElem?_setSlave_self { u with state := .validating, acc := rest } hu
  obtain ⟨v, hv, hvacc, -⟩ := validateAndDispatch_unit (p := p) (s := takeWindow p u rest s)
    { u with state := .validating, acc := rest } [reqMagic0, reqMagic1, id, cmd, d1, d2, ck] hu1
  have hlen : v.acc.length < u.acc.length := by
    rw [hvacc, hacc]
    simp only [List.length_cons]
    omega
  have hwindow : seek u = u ∧ u.acc.take reqLen = [reqMagic0, reqMagic1, id, cmd, d1, d2, ck] ∧
      u.acc.drop reqLen = rest ∧ u.state = .collecting ∧ reqLen ≤ u.acc.length :=
    ⟨seek_of_collecting hst, by rw [hacc]; rfl, by rw [hacc]; rfl, hst, by simp [hacc, reqLen]⟩
  obtain ⟨hseek, htake, hdrop, hfull⟩ := hwindow
  have hrun : runRequestWindow p [reqMagic0, reqMagic1, id, cmd, d1, d2, ck]
      (setSlave p { u with state := .validating, acc := rest } s) = .next t := runRequestWindow_eq id cmd d1 d2 ck hu1
  rw [assemble, withSlave_of_some hu, assembleFuel, withSlave_of_some hu]
  dsimp only
  rw [hseek, if_pos hfull, htake, hdrop, hrun, andThen_next, withSlave_of_some hv, withSlave_of_some hv,
    assemble_eq_fuel hv hlen]

/-- A damaged window is dropped, and the assembler goes on with the bytes behind it (R286). -/
theorem assemble_of_bad_window {id cmd d1 d2 ck : Byte} {rest : List Byte} {e : ExcKind}
    (hu : s.slaves[p]? = some u) (hst : u.state = .collecting)
    (hacc : u.acc = reqMagic0 :: reqMagic1 :: id :: cmd :: d1 :: d2 :: ck :: rest)
    (hbad : decodeRequest [reqMagic0, reqMagic1, id, cmd, d1, d2, ck] = .error e) :
    assemble p s = assemble p (dropWindow p u rest e s) := by
  have hv : (dropWindow p u rest e s).slaves[p]? = some { u with state := .seeking, acc := rest } :=
    getElem?_setSlave_self _ hu
  rw [assemble_of_window hu hst hacc, validateAndDispatch_of_error hbad, rejectWindow_takeWindow,
    withSlave_of_some hv, if_pos rfl]

/-- A dispatched unit is no longer seeking (R287, R289). -/
theorem validateAndDispatch_of_ok {f : List Byte} {r : ParsedRequest} {w : Slave} (hw : s.slaves[p]? = some w)
    (h : decodeRequest f = .ok r) :
    ∃ v, (validateAndDispatch p u f s).slaves[p]? = some v ∧ v.state = .dispatching := by
  cases r with
  | read id =>
    rw [validateAndDispatch_of_read h]
    exact ⟨_, getElem?_setSlave_self _ hw, rfl⟩
  | set id rpm =>
    rw [validateAndDispatch_of_set h, dispatchSet_eq]
    exact ⟨_, getElem?_setSlave_self _ ((fileSet_slaves id rpm s).symm ▸ hw), (takeSet_latches id rpm u _).1⟩

/-- A valid window is dispatched, and the bytes behind it wait (R285). -/
theorem assemble_of_good_window {id cmd d1 d2 ck : Byte} {rest : List Byte} {r : ParsedRequest}
    (hu : s.slaves[p]? = some u) (hst : u.state = .collecting)
    (hacc : u.acc = reqMagic0 :: reqMagic1 :: id :: cmd :: d1 :: d2 :: ck :: rest)
    (hgood : decodeRequest [reqMagic0, reqMagic1, id, cmd, d1, d2, ck] = .ok r) :
    assemble p s = .next (validateAndDispatch p { u with state := .validating, acc := rest }
      [reqMagic0, reqMagic1, id, cmd, d1, d2, ck] (takeWindow p u rest s)) := by
  have hu1 := getElem?_setSlave_self { u with state := .validating, acc := rest } hu
  obtain ⟨v, hv, hvst⟩ := validateAndDispatch_of_ok (p := p) (s := takeWindow p u rest s)
    (u := { u with state := .validating, acc := rest }) hu1 hgood
  rw [assemble_of_window hu hst hacc, withSlave_of_some hv, if_neg (by simp [hvst])]

end

/-- Settles O24: the rules of `assemble()`, the window's tests in their order. -/
theorem assemblerTakesEachWindow : Obligations.AssemblerTakesEachWindow := by
  intro p u s hu put sought
  refine ⟨assemble_of_no_magic hu, assemble_of_magic hu, assemble_of_partial hu, ?_⟩
  intro id cmd d1 d2 ck rest hst hacc sum idBad taken dropped
  have htaken : taken.slaves[taken.activePort]? = some { u with state := .validating, acc := rest } :=
    getElem?_setSlave_self _ hu
  have htests := decodeRequest_window id cmd d1 d2 ck
  refine ⟨fun hsum => ?_, fun hsum hid => ?_, fun hsum hid hread hset => ?_, fun hsum hid hread => ?_,
    fun hsum hid hset => ?_⟩
  · rw [if_neg hsum] at htests
    exact assemble_of_bad_window hu hst hacc htests
  · rw [if_pos hsum, if_pos hid] at htests
    exact assemble_of_bad_window hu hst hacc htests
  · rw [if_pos hsum, if_neg hid, if_neg hset, if_neg hread] at htests
    exact assemble_of_bad_window hu hst hacc htests
  · subst hread
    rw [if_pos hsum, if_neg hid, if_neg (by decide), if_pos rfl] at htests
    rw [assemble_of_good_window hu hst hacc htests, exec_reqRead htaken]
    rfl
  · subst hset
    rw [if_pos hsum, if_neg hid, if_pos rfl] at htests
    rw [assemble_of_good_window hu hst hacc htests, exec_reqSet htaken, ← join16_eq_ofNat, hi8_join16, lo8_join16]
    rfl

end Sys2Proof.Machine
end

section
/-! SUPPORT. A byte at a slave port (R281 to R286, R292): what it does to a listener in each state, and the bytes of a
request in a row. -/

namespace Sys2Proof.Machine

/-! ## One byte -/

section
variable {p : Nat} {u : Slave} {s : State}

/-- The accumulator has room unless it holds at least seven bytes and as many as it can (R6, R282). -/
theorem accFull_eq_false {params : Params}
    (h : params.accDepth = none ∨ u.acc.length < 7 ∨ ∃ n, params.accDepth = some n ∧ u.acc.length < n) :
    accFull params u = false := by
  rcases h with hnone | hshort | ⟨n, hdepth, hn⟩
  · simp [accFull, hnone]
  · simp [accFull, hshort.not_ge]
  · simp [accFull, hdepth, hn.not_ge]

theorem onEvent_sRx_of_stopped (hu : s.slaves[p]? = some u) (hst : u.state = .stopped) (b : Byte) :
    onEvent (.sRx p b) s = .next s := by
  rw [onEvent_eq, handle, slaveRx, withSlave_of_some hu, if_pos hst]

/-- A dispatching or paused listener only keeps the byte (R282). -/
theorem onEvent_sRx_of_busy (hu : s.slaves[p]? = some u) (hst : u.state = .dispatching ∨ u.state = .paused)
    (hroom : accFull s.params u = false) (b : Byte) :
    onEvent (.sRx p b) s = .next (setSlave p { u with acc := u.acc ++ [b] } s) := by
  rw [onEvent_eq, handle, slaveRx, withSlave_of_some hu]
  rcases hst with hst | hst <;> simp [hst, hroom]

/-- A seeking or collecting listener assembles what it has with the byte (R282). -/
theorem onEvent_sRx_of_listening (hu : s.slaves[p]? = some u) (hst : u.state = .seeking ∨ u.state = .collecting)
    (hroom : accFull s.params u = false) (b : Byte) :
    onEvent (.sRx p b) s = assemble p (setSlave p { u with acc := u.acc ++ [b] } s) := by
  rw [onEvent_eq, handle, slaveRx, withSlave_of_some hu]
  rcases hst with hst | hst <;> simp [hst, hroom]

/-- The first magic byte is kept while seeking goes on (R283). -/
theorem onEvent_sRx_magic0 (hu : s.slaves[p]? = some u) (hst : u.state = .seeking) (hacc : u.acc = []) :
    onEvent (.sRx p reqMagic0) s = .next (setSlave p { u with acc := [reqMagic0] } s) := by
  have hroom : accFull s.params u = false := accFull_eq_false (.inr (.inl (by simp [hacc])))
  have hu1 := getElem?_setSlave_self { u with acc := u.acc ++ [reqMagic0] } hu
  rw [onEvent_sRx_of_listening hu (.inl hst) hroom, assemble_of_no_magic hu1 hst (by simp [hacc, resync]),
    setSlave_setSlave]
  simp [hacc, resync]

/-- With the second magic byte the listener collects (R283). -/
theorem onEvent_sRx_magic1 (hu : s.slaves[p]? = some u) (hst : u.state = .seeking) (hacc : u.acc = [reqMagic0]) :
    onEvent (.sRx p reqMagic1) s =
      .next (setSlave p { u with acc := [reqMagic0, reqMagic1], state := .collecting } s) := by
  have hroom : accFull s.params u = false := accFull_eq_false (.inr (.inl (by simp [hacc])))
  have hu1 := getElem?_setSlave_self { u with acc := u.acc ++ [reqMagic1] } hu
  have hsought : resync reqMagic0 reqMagic1 (u.acc ++ [reqMagic1]) = [reqMagic0, reqMagic1] := by
    rw [hacc]
    exact resync_magic _ _ []
  have htwo : (resync reqMagic0 reqMagic1 (u.acc ++ [reqMagic1])).length = 2 := by rw [hsought]; rfl
  rw [onEvent_sRx_of_listening hu (.inl hst) hroom, assemble_of_magic hu1 hst htwo.ge,
    assemble_of_partial (getElem?_setSlave_self _ hu1) rfl (htwo.trans_lt (by decide)), setSlave_setSlave]
  simp only [hsought]

/-- A collecting listener keeps a byte that does not complete the window (R282). -/
theorem onEvent_sRx_partial (hu : s.slaves[p]? = some u) (hst : u.state = .collecting)
    (hshort : u.acc.length + 1 < reqLen) (b : Byte) :
    onEvent (.sRx p b) s = .next (setSlave p { u with acc := u.acc ++ [b] } s) := by
  have hroom : accFull s.params u = false := accFull_eq_false (.inr (.inl (Nat.lt_of_succ_lt hshort)))
  rw [onEvent_sRx_of_listening hu (.inr hst) hroom]
  exact assemble_of_partial (getElem?_setSlave_self _ hu) hst (by simpa using hshort)

/-- The byte that completes the window has it validated, no byte left behind it (R285). -/
theorem onEvent_sRx_last {id cmd d1 d2 : Byte} (hu : s.slaves[p]? = some u) (hst : u.state = .collecting)
    (hacc : u.acc = [reqMagic0, reqMagic1, id, cmd, d1, d2]) (ck : Byte) :
    onEvent (.sRx p ck) s = .next (validateAndDispatch p { u with state := .validating, acc := [] }
      [reqMagic0, reqMagic1, id, cmd, d1, d2, ck] (takeWindow p u [] s)) := by
  have hroom : accFull s.params u = false := accFull_eq_false (.inr (.inl (by simp [hacc])))
  have hu1 := getElem?_setSlave_self { u with acc := u.acc ++ [ck] } hu
  have hwindow : u.acc ++ [ck] = [reqMagic0, reqMagic1, id, cmd, d1, d2, ck] := by rw [hacc]; rfl
  rw [onEvent_sRx_of_listening hu (.inr hst) hroom, assemble_window hu1 hst (by simp [hacc, reqLen]),
    setSlave_setSlave, hwindow]
  exact runRequestWindow_eq id cmd d1 d2 ck (getElem?_setSlave_self _ hu)

/-- A damaged window is gone with its last byte (R286). -/
theorem onEvent_sRx_last_of_bad {id cmd d1 d2 ck : Byte} {e : ExcKind} (hu : s.slaves[p]? = some u)
    (hst : u.state = .collecting) (hacc : u.acc = [reqMagic0, reqMagic1, id, cmd, d1, d2])
    (hbad : decodeRequest [reqMagic0, reqMagic1, id, cmd, d1, d2, ck] = .error e) :
    onEvent (.sRx p ck) s = .next (dropWindow p u [] e s) := by
  rw [onEvent_sRx_last hu hst hacc, validateAndDispatch_of_error hbad, rejectWindow_takeWindow]

end

/-- Settles O21: by the listener's state. -/
theorem bytesForABusyListener : Obligations.BytesForABusyListener := fun _ b _ _ hu =>
  ⟨fun hst => onEvent_sRx_of_stopped hu hst b,
    fun hst hroom => onEvent_sRx_of_busy hu hst (accFull_eq_false hroom) b⟩

/-- Settles O20: the tests of the window in their order, for each instruction and for the byte that completes it. -/
theorem droppedRequestWindows : Obligations.DroppedRequestWindows := by
  refine ⟨?_, ?_⟩
  · intro id data1 data2 ck rpm u s hu dropped readSum setSum
    have hreject : ∀ {f : List Byte} {e : ExcKind}, decodeRequest f = .error e →
        (.next (validateAndDispatch s.activePort u f s) : Result) = .next (dropped e) := fun h =>
      congrArg _ (validateAndDispatch_of_error h)
    have hread := decodeRequest_reqRead id data1 data2 ck
    have hset := decodeRequest_reqSet id ck rpm
    rw [exec_reqRead hu, exec_reqSet hu]
    exact ⟨fun hsum => hreject (hread.trans (if_neg hsum)),
      fun hsum hid => hreject (hread.trans ((if_pos hsum).trans (if_pos hid))),
      fun hsum => hreject (hset.trans (if_neg hsum)),
      fun hsum hid => hreject (hset.trans ((if_pos hsum).trans (if_pos hid)))⟩
  · intro p id cmd d1 d2 ck u s hu hst hacc sum idBad dropped
    have hwindow := decodeRequest_window id cmd d1 d2 ck
    refine ⟨fun hsum => ?_, fun hsum hid => ?_, fun hsum hid hread hset => ?_⟩
    · rw [if_neg hsum] at hwindow
      exact onEvent_sRx_last_of_bad hu hst hacc hwindow
    · rw [if_pos hsum, if_pos hid] at hwindow
      exact onEvent_sRx_last_of_bad hu hst hacc hwindow
    · rw [if_pos hsum, if_neg hid, if_neg hset, if_neg hread] at hwindow
      exact onEvent_sRx_last_of_bad hu hst hacc hwindow

/-! ## Bytes in a row -/

theorem ofNat_toNat_eq_lo8 (v : Word16) : BitVec.ofNat 8 v.toNat = lo8 v :=
  BitVec.eq_of_toNat_eq ((BitVec.toNat_ofNat _ 8).trans (toNat_lo8 v).symm)

theorem feed_append (p : Nat) (a b : List Byte) (s : State) :
    feed p (a ++ b) s = andThen (feed p a s) (feed p b) := by
  induction a generalizing s with
  | nil => rfl
  | cons x a ih =>
    simp only [List.cons_append, feed]
    cases onEvent (.sRx p x) s with
    | next t => exact ih t
    | fault e => rfl
    | refused e => rfl

section
variable {p : Nat} {u : Slave} {s : State}

/-- A collecting listener keeps bytes that do not complete the window (R282). -/
theorem feed_partial {bs : List Byte} (hu : s.slaves[p]? = some u) (hst : u.state = .collecting)
    (hshort : u.acc.length + bs.length < reqLen) :
    feed p bs s = .next (setSlave p { u with acc := u.acc ++ bs } s) := by
  induction bs generalizing u s with
  | nil => simp [feed, setSlave_self hu]
  | cons b bs ih =>
    have hlen : u.acc.length + 1 + bs.length < reqLen := by
      rw [List.length_cons] at hshort
      omega
    have hkept : (u.acc ++ [b]).length + bs.length < reqLen := by simpa using hlen
    rw [feed, onEvent_sRx_partial hu hst (by omega), andThen_next,
      ih (u := { u with acc := u.acc ++ [b] }) (getElem?_setSlave_self _ hu) hst hkept, setSlave_setSlave]
    simp

/-- The seven bytes of a request window have it validated by a seeking listener with nothing buffered (R285). -/
theorem feed_window (hu : s.slaves[p]? = some u) (hst : u.state = .seeking) (hacc : u.acc = [])
    (id cmd d1 d2 ck : Byte) :
    feed p [reqMagic0, reqMagic1, id, cmd, d1, d2, ck] s =
      .next (validateAndDispatch p { u with state := .validating, acc := [] }
        [reqMagic0, reqMagic1, id, cmd, d1, d2, ck] (takeWindow p u [] s)) := by
  have hu1 := getElem?_setSlave_self { u with acc := [reqMagic0] } hu
  have hu2 := getElem?_setSlave_self { u with acc := [reqMagic0, reqMagic1], state := .collecting } hu
  have hu3 := getElem?_setSlave_self
    { u with acc := [reqMagic0, reqMagic1, id, cmd, d1, d2], state := .collecting } hu
  have hmiddle : [id, cmd, d1, d2, ck] = [id, cmd, d1, d2] ++ [ck] := rfl
  rw [feed, onEvent_sRx_magic0 hu hst hacc, andThen_next, feed, onEvent_sRx_magic1 hu1 hst rfl, andThen_next,
    setSlave_setSlave, hmiddle, feed_append,
    feed_partial (bs := [id, cmd, d1, d2]) hu2 rfl (show 6 < 7 by decide), andThen_next, setSlave_setSlave]
  simp only [List.cons_append, List.nil_append, feed]
  rw [onEvent_sRx_last hu3 rfl rfl, takeWindow, setSlave_setSlave]
  rfl

/-- After a damaged window the next one is validated as if the damaged one had never come, but for what it published
(R292). -/
theorem feed_window_after_bad {i c a b k : Byte} {e : ExcKind} (hu : s.slaves[p]? = some u)
    (hst : u.state = .seeking) (hacc : u.acc = [])
    (hbad : decodeRequest [reqMagic0, reqMagic1, i, c, a, b, k] = .error e) (id cmd d1 d2 ck : Byte) :
    feed p ([reqMagic0, reqMagic1, i, c, a, b, k] ++ [reqMagic0, reqMagic1, id, cmd, d1, d2, ck]) s =
      .next (validateAndDispatch p { u with state := .validating, acc := [] }
        [reqMagic0, reqMagic1, id, cmd, d1, d2, ck]
        (takeWindow p u [] (emit (.decodeErr .slv e) s))) := by
  have hu1 : (dropWindow p u [] e s).slaves[p]? = some { u with state := .seeking, acc := [] } :=
    getElem?_setSlave_self _ hu
  have htaken : takeWindow p { u with state := .seeking, acc := [] } [] (dropWindow p u [] e s) =
      takeWindow p u [] (emit (.decodeErr .slv e) s) := by
    simp [takeWindow, dropWindow, setSlave, emit]
  rw [feed_append, feed_window hu hst hacc, validateAndDispatch_of_error hbad, rejectWindow_takeWindow, andThen_next,
    feed_window hu1 rfl rfl, htaken]

end

/-- Settles O25: the damaged window is dropped, and the valid one behind it is dispatched. -/
theorem slaveRecoversFromACorruptedFrame : Obligations.SlaveRecoversFromACorruptedFrame := by
  intro p i c a b k id u s hu hst hacc h1 h64 hk
  have hbad : decodeRequest [reqMagic0, reqMagic1, i, c, a, b, k] = .error .checksumMismatch :=
    (decodeRequest_window i c a b k).trans (if_neg hk)
  refine ⟨fun data1 data2 => ?_, fun rpm => ?_⟩
  · refine (feed_window_after_bad hu hst hacc hbad id cmdRead data1 data2 _).trans ?_
    rw [validateAndDispatch_of_read (decodeRequest_validRead data1 data2 h1 h64)]
    simp [dispatchRead, takeWindow, setSlave, emit, readMap]
  · set m := takeWindow p u [] (emit (.decodeErr .slv .checksumMismatch) s) with hm
    set v := takeSet id rpm (drawDelay m) { u with state := .validating, acc := [] }
    obtain ⟨hstate, hid, hcmd, hrpm, hvacc, htx, hcancel⟩ :=
      takeSet_latches id rpm { u with state := .validating, acc := [] } (drawDelay m)
    refine ⟨setSlave p v (fileSet id rpm m), v, ?_, fun e he he64 => ?_, hstate, hid, hcmd, hrpm, hvacc, htx, hcancel,
      ?_⟩
    · rw [ofNat_div_256, ofNat_toNat_eq_lo8]
      refine (feed_window_after_bad hu hst hacc hbad id cmdSet (hi8 rpm) (lo8 rpm) _).trans ?_
      rw [validateAndDispatch_of_set (decodeRequest_validSet rpm h1 h64), dispatchSet_eq]
    · exact readMap_fileSet id rpm m he he64
    · refine (congrArg (setSlave p v) (fileSet_rest id rpm m)).trans ?_
      simp [hm, takeWindow, setSlave, emit]

end Sys2Proof.Machine
end

section
/-! SUPPORT. The transmitter, the fault and the tick of a slave port (R290, R291, R341). -/

namespace Sys2Proof.Machine

/-! ## A response leaves (R290) -/

section
variable {p : Nat} {u : Slave} {s : State}

theorem slaveTxByte_of_empty (hu : s.slaves[p]? = some u) (hq : u.txq = []) : slaveTxByte p s = .next s := by
  simp only [slaveTxByte, withSlave_of_some hu, hq]

/-- A byte that is not the last leaves the others waiting. -/
theorem slaveTxByte_of_more {b c : Byte} {rest : List Byte} (hu : s.slaves[p]? = some u)
    (hq : u.txq = b :: c :: rest) :
    slaveTxByte p s = .next (setSlave p { u with txOut := u.txOut ++ [b], txq := c :: rest } s) := by
  simp [slaveTxByte, withSlave_of_some hu, hq]

/-- After the last byte the listener stops if that was asked, else it seeks on. -/
theorem slaveTxByte_of_last {b : Byte} (hu : s.slaves[p]? = some u) (hq : u.txq = [b]) :
    slaveTxByte p s =
      if u.cancelReq then .next (stopSlave p { u with txOut := u.txOut ++ [b], txq := [] } s)
      else resumeSeeking p { u with txOut := u.txOut ++ [b], txq := [] } s := by
  simp [slaveTxByte, withSlave_of_some hu, hq]

end

/-- Settles O22: the queue's shapes, and the pending cancel request. -/
theorem responseLeavesByteByByte : Obligations.ResponseLeavesByteByByte := by
  intro p u s hu
  rw [onEvent_eq, handle]
  refine ⟨slaveTxByte_of_empty hu, fun b c rest hq => slaveTxByte_of_more hu hq, fun b hq hcancel => ?_,
    fun b hq hcancel => ?_⟩
  · rw [slaveTxByte_of_last hu hq, if_pos hcancel]
    rfl
  · rw [slaveTxByte_of_last hu hq, if_neg (by simp [hcancel])]
    rfl

/-! ## A fault (R291) -/

section
variable {p : Nat} {u : Slave} {s : State}

theorem slaveFault_of_stopped (hu : s.slaves[p]? = some u) (hst : u.state = .stopped) :
    slaveFault p s = .next s := by
  rw [slaveFault, withSlave_of_some hu, if_pos hst]

/-- A running listener pauses, or seeks on at once where the pause is 0. -/
theorem slaveFault_of_running (hu : s.slaves[p]? = some u) (hst : u.state ≠ .stopped) :
    let v : Slave := { u with txq := [], state := .paused, timer := s.params.faultPause }
    slaveFault p s =
      if s.params.faultPause = 0 then resumeSeeking p v (raise (.transportFault .s) s)
      else .next (setSlave p v (raise (.transportFault .s) s)) := by
  rw [slaveFault, withSlave_of_some hu, if_neg hst]
  rfl

/-! ## The tick of a paused listener (R291, R341) -/

/-- A pause that goes on counts down. -/
theorem SlaveTicked.of_pause {v : Slave} (h : SlaveTicked u v) (hst : u.state = .paused) (htimer : u.timer ≠ 1) :
    v = { u with timer := u.timer - 1 } := by
  rcases h with ⟨hdelay, -⟩ | ⟨hdelay, -⟩ | ⟨-, hone, -⟩ | ⟨-, -, rfl⟩ | ⟨huntimed, -⟩
  · exact absurd (hst.symm.trans hdelay) nofun
  · exact absurd (hst.symm.trans hdelay) nofun
  · exact absurd hone htimer
  · rfl
  · simp [slvTimed, hst] at huntimed

/-- With the last tick of the pause seeking resumes on what was buffered. -/
theorem slaveTick_of_pause_end (hu : s.slaves[p]? = some u) (hst : u.state = .paused) (htimer : u.timer = 1) :
    slaveTick p s = assemble p (setSlave p { u with timer := 0, state := .seeking } s) := by
  simp [slaveTick, withSlave_of_some hu, hst, htimer, resumeSeeking]

/-- Between `s` and `t` the part of port `p` is run: at `m`, where its unit `u`, the parameters and the alarm word are
still as in `s`, and to `w`, whose unit stays until `t`; what is published is only added to. -/
structure PartWithin (p : Nat) (u : Slave) (s m w t : State) : Prop where
  part : slaveTick p m = .next w
  unit : m.slaves[p]? = some u
  params : m.params = s.params
  sAlarm : m.sAlarm = s.sAlarm
  before : s.evOut <+: m.evOut
  after : w.evOut <+: t.evOut
  stays : t.slaves[p]? = w.slaves[p]?

/-- The other parts leave port `p` alone, whichever come before its own and whichever after. -/
theorem runTickParts_within {parts : List Nat} (hu : s.slaves[p]? = some u) (hp : p + 1 ∈ parts)
    (hnd : parts.Nodup) (hle : ∀ q ∈ parts, q ≤ s.slaves.length) :
    ∃ m w t, runTickParts parts s = .next t ∧ PartWithin p u s m w t := by
  obtain ⟨before, after, rfl⟩ := List.append_of_mem hp
  obtain ⟨hnotMem, hrest⟩ := List.nodup_cons.mp (List.nodup_middle.mp hnd)
  obtain ⟨hnotBefore, hnotAfter⟩ := not_or.mp (mt List.mem_append.mpr hnotMem)
  obtain ⟨hbefore, hafter, -⟩ := List.nodup_append.mp hrest
  obtain ⟨m, hm, hsm⟩ := runTickParts_spec before s hbefore fun q hq => hle q (List.mem_append_left _ hq)
  have hum : m.slaves[p]? = some u := (hsm.others p hnotBefore).trans hu
  obtain ⟨w, -, hw, hframe, -⟩ := slaveTick_spec hum
  obtain ⟨t, ht, hwt⟩ := runTickParts_spec after w hafter fun q hq => by
    rw [hframe.ports, hsm.ports]
    exact hle q (List.mem_append_right _ (List.mem_cons_of_mem _ hq))
  refine ⟨m, w, t, ?_, hw, hum, hsm.params, hsm.sAlarm, hsm.evOut, hwt.evOut, hwt.others p hnotAfter⟩
  rw [runTickParts_append, hm, andThen_next, runTickParts, tickPart, hw, andThen_next, ht]

theorem onEvent_tick_within (hu : s.slaves[p]? = some u) :
    ∃ m w t, onEvent .tick s = .next t ∧ PartWithin p u s m w t := by
  have hperm := tickParts_perm s
  have hnd : (tickParts s).Nodup := hperm.nodup_iff.mpr List.nodup_range
  have hlt : p < s.slaves.length := (List.getElem?_eq_some_iff.mp hu).1
  have hp : p + 1 ∈ tickParts s := hperm.mem_iff.mpr (by simpa using hlt)
  have hle : ∀ q ∈ tickParts s, q ≤ s.slaves.length := fun q hq =>
    Nat.le_of_lt_succ (List.mem_range.mp (hperm.mem_iff.mp hq))
  rw [onEvent_eq, handle, tick]
  split
  · exact runTickParts_within hu hp hnd hle
  · obtain ⟨m, w, t, ht, hwithin⟩ := runTickParts_within (s := countFree s) hu hp hnd hle
    exact ⟨m, w, t, ht, hwithin.part, hwithin.unit, hwithin.params, hwithin.sAlarm, hwithin.before, hwithin.after,
      hwithin.stays⟩

/-! ## A tick in which one timer runs -/

theorem awaiting_of_untimed (hpoll : pollTimed s = false) (hsc : scTimed s = false) (hscan : scanTimed s = false) :
    awaiting s = none := by
  have hawait : ∀ v : MasterUnit, inAwait s v = false := fun v => by
    cases v <;> simp_all [inAwait, pollTimed, scTimed, scanTimed]
  unfold awaiting
  split
  · rfl
  · rw [hawait, if_neg Bool.false_ne_true]

/-- Where no timer of the master runs its part of a tick does nothing. -/
theorem masterTick_of_untimed (hpoll : pollTimed s = false) (hsc : scTimed s = false)
    (hscan : scanTimed s = false) : masterTick s = s := by
  have hclosed : rxOpen s = false := by rw [rxOpen, awaiting_of_untimed hpoll hsc hscan]; rfl
  have hcount : countElapsed s = s := if_neg (by simp [hclosed])
  rw [masterTick, hcount, pollTick_of_untimed hpoll, scTick_of_untimed hsc, scanTick_of_untimed hscan]

theorem runTickParts_of_untimed_ports {ports : List Nat}
    (h : ∀ q ∈ ports, ∃ v, s.slaves[q]? = some v ∧ slvTimed v = false) :
    runTickParts (ports.map (· + 1)) s = .next s := by
  induction ports with
  | nil => rfl
  | cons q ports ih =>
    obtain ⟨⟨v, hv, huntimed⟩, hrest⟩ := List.forall_mem_cons.mp h
    rw [List.map_cons, runTickParts, tickPart, slaveTick_of_untimed hv huntimed, andThen_next, ih hrest]

/-- Where the timers of the other ports do not run, the slave ports' parts of a tick are that of port `p`. -/
theorem runTickParts_alone {ports : List Nat} (hu : s.slaves[p]? = some u) (hp : p ∈ ports) (hnd : ports.Nodup)
    (hothers : ∀ q ∈ ports, q ≠ p → ∃ v, s.slaves[q]? = some v ∧ slvTimed v = false) :
    runTickParts (ports.map (· + 1)) s = slaveTick p s := by
  induction ports with
  | nil => cases hp
  | cons q ports ih =>
    obtain ⟨hq, hnd⟩ := List.nodup_cons.mp hnd
    rw [List.map_cons, runTickParts, tickPart]
    by_cases hqp : q = p
    · subst hqp
      obtain ⟨w, -, hw, hframe, -⟩ := slaveTick_spec hu
      rw [hw, andThen_next]
      refine runTickParts_of_untimed_ports fun a ha => ?_
      have hne : a ≠ q := fun h => hq (h ▸ ha)
      rw [hframe.others a hne]
      exact hothers a (List.mem_cons_of_mem _ ha) hne
    · obtain ⟨v, hv, huntimed⟩ := hothers q List.mem_cons_self hqp
      rw [slaveTick_of_untimed hv huntimed, andThen_next]
      exact ih (List.mem_of_ne_of_mem (Ne.symm hqp) hp) hnd fun a ha => hothers a (List.mem_cons_of_mem _ ha)

/-- At most one port's part of the tick shows where no other port's timer runs. -/
theorem countP_slaveTickShows_le_one (hu : s.slaves[p]? = some u)
    (hothers : ∀ q v, q ≠ p → s.slaves[q]? = some v → slvTimed v = false) :
    s.slaves.countP slaveTickShows ≤ 1 := by
  obtain ⟨hp, rfl⟩ := List.getElem?_eq_some_iff.mp hu
  have hset : (s.slaves.set p Slave.reset).countP slaveTickShows = 0 := by
    refine List.countP_eq_zero.mpr fun w hw => ?_
    obtain ⟨q, hq⟩ := List.mem_iff_getElem?.mp hw
    by_cases hqp : q = p
    · subst hqp
      rw [List.getElem?_set_self hp] at hq
      cases hq
      decide
    · rw [List.getElem?_set_ne (Ne.symm hqp)] at hq
      have huntimed := hothers q w hqp hq
      simp_all [slvTimed, slaveTickShows]
  rw [List.countP_set hp] at hset
  split at hset <;> omega

/-- Where no other timer runs a tick is the part of port `p`. -/
theorem onEvent_tick_alone (hu : s.slaves[p]? = some u) (hpoll : pollTimed s = false) (hsc : scTimed s = false)
    (hscan : scanTimed s = false) (hothers : ∀ q v, q ≠ p → s.slaves[q]? = some v → slvTimed v = false) :
    onEvent .tick s = slaveTick p s := by
  have hshows : tickShows s ≤ 1 := by
    rw [tickShows, masterTickShows, awaiting_of_untimed hpoll hsc hscan, if_neg Bool.false_ne_true, Nat.zero_add]
    exact countP_slaveTickShows_le_one hu hothers
  have hp : p < s.slaves.length := (List.getElem?_eq_some_iff.mp hu).1
  rw [onEvent_eq, handle, tick, tickParts, if_pos hshows, if_pos hshows, List.range_succ_eq_map, runTickParts, tickPart,
    andThen_next, masterTick_of_untimed hpoll hsc hscan]
  refine runTickParts_alone hu (List.mem_range.mpr hp) List.nodup_range fun q hq hqp => ?_
  have hv := List.getElem?_eq_getElem (List.mem_range.mp hq)
  exact ⟨_, hv, hothers q _ hqp hv⟩

end

/-- Settles O23: the fault by the state it meets; the tick by its part of port `p`, among the others or alone. -/
theorem slaveFaultPausesTheListener : Obligations.SlaveFaultPausesTheListener := by
  intro p u s hu
  refine ⟨fun hst => ?stopped, fun hst hpause => ?paused, fun hst hpause => ?resumed, fun hst htimer => ?counts,
    fun hst htimer => ⟨?ends, fun hpoll hsc hscan hothers => ?alone⟩⟩
  case stopped => exact (onEvent_eq _ s).trans (slaveFault_of_stopped hu hst)
  case paused =>
    rw [onEvent_eq, handle, slaveFault_of_running hu hst, if_neg hpause]
    rfl
  case resumed =>
    rw [onEvent_eq, handle, slaveFault_of_running hu hst, if_pos hpause, hpause]
    rfl
  case counts =>
    obtain ⟨t, v, ht, hv, huv⟩ := onEvent_tick_unit hu
    exact ⟨t, ht, hv.trans (congrArg some (huv.of_pause hst htimer))⟩
  case ends =>
    obtain ⟨m, w, t, ht, hwithin⟩ := onEvent_tick_within hu
    have hassembled := (slaveTick_of_pause_end hwithin.unit hst htimer).symm.trans hwithin.part
    exact ⟨t, setSlave p { u with timer := 0, state := .seeking } m, w, ht, getElem?_setSlave_self _ hwithin.unit,
      hwithin.params, hwithin.sAlarm, hwithin.before, hassembled, hwithin.after, hwithin.stays⟩
  case alone =>
    rw [onEvent_tick_alone hu hpoll hsc hscan hothers]
    exact slaveTick_of_pause_end hu hst htimer

end Sys2Proof.Machine
end

section
/-! SUPPORT. What the ports share (R43, R293): a byte received at one port does the same in any two states that agree on
that port's unit, the map, S_ALARM, the parameters and the draws. -/

namespace Sys2Proof.Machine

/-! ## States alike at one port -/

/-- Two states that the events of port `p` cannot tell apart, and in which the same was published since `x` and `y`. -/
structure AlikeAt (p : Nat) (x y : List OutEvent) (s r : State) : Prop where
  unit : r.slaves[p]? = s.slaves[p]?
  rpmMap : r.rpmMap = s.rpmMap
  sAlarm : r.sAlarm = s.sAlarm
  params : r.params = s.params
  draws : r.draws = s.draws
  freeCount : r.freeCount = s.freeCount
  published : ∃ new, s.evOut = x ++ new ∧ r.evOut = y ++ new

namespace AlikeAt

section
variable {p : Nat} {x y : List OutEvent} {s r : State}

theorem setSlave (h : AlikeAt p x y s r) (u : Slave) : AlikeAt p x y (setSlave p u s) (setSlave p u r) := by
  have hunit : (r.slaves.set p u)[p]? = (s.slaves.set p u)[p]? := by
    rw [List.getElem?_set_self', List.getElem?_set_self', h.unit]
  exact ⟨hunit, h.rpmMap, h.sAlarm, h.params, h.draws, h.freeCount, h.published⟩

theorem emit (h : AlikeAt p x y s r) (e : OutEvent) : AlikeAt p x y (emit e s) (emit e r) := by
  obtain ⟨new, hs, hr⟩ := h.published
  exact ⟨h.unit, h.rpmMap, h.sAlarm, h.params, h.draws, h.freeCount, new ++ [e],
    by rw [emit_evOut, hs, List.append_assoc], by rw [emit_evOut, hr, List.append_assoc]⟩

theorem writeMap (h : AlikeAt p x y s r) (id : Nat) (v : Word16) :
    AlikeAt p x y (writeMap id v s) (writeMap id v r) := by
  unfold Machine.writeMap
  split
  · exact ⟨h.unit, by rw [h.rpmMap], h.sAlarm, h.params, h.draws, h.freeCount, h.published⟩
  · exact h

theorem afterDraw (h : AlikeAt p x y s r) : AlikeAt p x y (afterDraw s) (afterDraw r) := by
  rw [Machine.afterDraw, Machine.afterDraw, h.draws]
  split
  · exact ⟨h.unit, h.rpmMap, h.sAlarm, h.params, rfl, h.freeCount, h.published⟩
  · exact ⟨h.unit, h.rpmMap, h.sAlarm, h.params, h.draws, congrArg (· + 1) h.freeCount, h.published⟩

/-- The port whose window was validated last plays no part. -/
theorem activePort (h : AlikeAt p x y s r) (q : Nat) :
    AlikeAt p x y { s with activePort := q } { r with activePort := q } :=
  ⟨h.unit, h.rpmMap, h.sAlarm, h.params, h.draws, h.freeCount, h.published⟩

theorem takeWindow (h : AlikeAt p x y s r) (u : Slave) (rest : List Byte) :
    AlikeAt p x y (takeWindow p u rest s) (takeWindow p u rest r) :=
  (h.setSlave _).activePort p

theorem dropWindow (h : AlikeAt p x y s r) (u : Slave) (rest : List Byte) (e : ExcKind) :
    AlikeAt p x y (dropWindow p u rest e s) (dropWindow p u rest e r) :=
  ((h.emit _).setSlave _).activePort p

/-- A window has the same effect on both, whatever it holds (R285). -/
theorem validateAndDispatch (h : AlikeAt p x y s r) (u : Slave) (f : List Byte) :
    AlikeAt p x y (validateAndDispatch p u f s) (validateAndDispatch p u f r) := by
  cases hf : decodeRequest f with
  | error e =>
    rw [validateAndDispatch_of_error hf, validateAndDispatch_of_error hf]
    exact (h.emit _).setSlave _
  | ok request =>
    cases request with
    | read id =>
      rw [validateAndDispatch_of_read hf, validateAndDispatch_of_read hf, dispatchRead, dispatchRead,
        readMap_congr h.rpmMap, h.sAlarm]
      exact (h.emit _).setSlave _
    | set id rpm =>
      rw [validateAndDispatch_of_set hf, validateAndDispatch_of_set hf, dispatchSet_eq, dispatchSet_eq,
        drawDelay_congr h.params h.draws h.freeCount]
      exact ((h.writeMap _ _).emit _).afterDraw.setSlave _

end

end AlikeAt

/-! ## The assembler (R282) -/

/-- Seven bytes that begin with the magic are a window and what follows it. -/
theorem exists_window {acc : List Byte} (hmagic : ∃ tail, acc = reqMagic0 :: reqMagic1 :: tail)
    (h7 : reqLen ≤ acc.length) :
    ∃ id cmd d1 d2 ck rest, acc = reqMagic0 :: reqMagic1 :: id :: cmd :: d1 :: d2 :: ck :: rest := by
  obtain ⟨tail, rfl⟩ := hmagic
  match tail with
  | id :: cmd :: d1 :: d2 :: ck :: rest => exact ⟨id, cmd, d1, d2, ck, rest, rfl⟩
  | [] | [_] | [_, _] | [_, _, _] | [_, _, _, _] => simp [reqLen] at h7

/-- Two bytes left after seeking are the magic (R129). -/
theorem resync_found {m0 m1 : Byte} {acc : List Byte} (h : 2 ≤ (resync m0 m1 acc).length) :
    ∃ rest, resync m0 m1 acc = m0 :: m1 :: rest := by
  rcases resync_front m0 m1 acc with hnil | hone | hmagic
  · simp [hnil] at h
  · simp [hone] at h
  · exact hmagic

section
variable {p : Nat} {u : Slave} {x y : List OutEvent} {s r : State}

/-- `assemble()` does the same in both: by the bytes it has left, a seeking unit coming before the collecting one it
becomes. -/
theorem AlikeAt.assemble (h : AlikeAt p x y s r) (hu : s.slaves[p]? = some u)
    (hst : u.state = .seeking ∨ u.state = .collecting) (hmagic : CollectsMagic u) :
    ∃ t t', assemble p s = .next t ∧ assemble p r = .next t' ∧ AlikeAt p x y t t' := by
  induction hn : 2 * u.acc.length + (if u.state = .seeking then 1 else 0) using Nat.strong_induction_on
    generalizing u s r with
  | h n ih =>
    have hur : r.slaves[p]? = some u := h.unit.trans hu
    rcases hst with hst | hst
    · rw [if_pos hst] at hn
      by_cases hshort : (resync reqMagic0 reqMagic1 u.acc).length < 2
      · exact ⟨_, _, assemble_of_no_magic hu hst hshort, assemble_of_no_magic hur hst hshort, h.setSlave _⟩
      · have hfound := Nat.not_lt.mp hshort
        have hle := (resync_suffix reqMagic0 reqMagic1 u.acc).length_le
        rw [assemble_of_magic hu hst hfound, assemble_of_magic hur hst hfound]
        refine ih _ ?_ (h.setSlave _) (getElem?_setSlave_self _ hu) (.inr rfl) (fun _ => resync_found hfound) rfl
        show 2 * (resync reqMagic0 reqMagic1 u.acc).length + 0 < n
        omega
    · by_cases hshort : u.acc.length < reqLen
      · exact ⟨s, r, assemble_of_partial hu hst hshort, assemble_of_partial hur hst hshort, h⟩
      · obtain ⟨id, cmd, d1, d2, ck, rest, hacc⟩ := exists_window (hmagic hst) (Nat.not_lt.mp hshort)
        cases hd : decodeRequest [reqMagic0, reqMagic1, id, cmd, d1, d2, ck] with
        | error e =>
          rw [assemble_of_bad_window hu hst hacc hd, assemble_of_bad_window hur hst hacc hd]
          refine ih _ ?_ (h.dropWindow u rest e) (getElem?_setSlave_self _ hu) (.inl rfl) nofun rfl
          show 2 * rest.length + 1 < n
          rw [← hn, hacc]
          simp only [List.length_cons]
          omega
        | ok request =>
          exact ⟨_, _, assemble_of_good_window hu hst hacc hd, assemble_of_good_window hur hst hacc hd,
            (h.takeWindow u rest).validateAndDispatch _ _⟩

/-! ## A byte (R281, R282) -/

theorem AlikeAt.onEvent_sRx {b : Byte} {t : State} (h : AlikeAt p x y s r) (hu : s.slaves[p]? = some u)
    (hok : SlaveOk u) (ht : onEvent (.sRx p b) s = .next t) :
    ∃ t', onEvent (.sRx p b) r = .next t' ∧ AlikeAt p x y t t' := by
  have hur : r.slaves[p]? = some u := h.unit.trans hu
  by_cases hstopped : u.state = .stopped
  · cases (onEvent_sRx_of_stopped hu hstopped b).symm.trans ht
    exact ⟨r, onEvent_sRx_of_stopped hur hstopped b, h⟩
  · have hroom : accFull s.params u = false := by
      by_contra hfull
      rw [onEvent_eq, handle, slaveRx_of_full b hu hstopped (by simpa using hfull)] at ht
      cases ht
    have hroomr : accFull r.params u = false := h.params ▸ hroom
    have listening : u.state = .seeking ∨ u.state = .collecting →
        ∃ t', onEvent (.sRx p b) r = .next t' ∧ AlikeAt p x y t t' := fun hst => by
      have hmagic : CollectsMagic { u with acc := u.acc ++ [b] } := fun hcollecting => by
        obtain ⟨rest, hrest⟩ := hok.collectsMagic hcollecting
        exact ⟨rest ++ [b], by simp [hrest]⟩
      obtain ⟨m, t', hm, ht', hmt⟩ := (h.setSlave { u with acc := u.acc ++ [b] }).assemble
        (getElem?_setSlave_self _ hu) hst hmagic
      cases ((onEvent_sRx_of_listening hu hst hroom b).trans hm).symm.trans ht
      exact ⟨t', (onEvent_sRx_of_listening hur hst hroomr b).trans ht', hmt⟩
    have busy : u.state = .dispatching ∨ u.state = .paused →
        ∃ t', onEvent (.sRx p b) r = .next t' ∧ AlikeAt p x y t t' := fun hst => by
      cases (onEvent_sRx_of_busy hu hst hroom b).symm.trans ht
      exact ⟨_, onEvent_sRx_of_busy hur hst hroomr b, h.setSlave _⟩
    cases hst : u.state with
    | stopped => exact absurd hst hstopped
    | validating => exact absurd hst hok.settled
    | seeking => exact listening (.inl hst)
    | collecting => exact listening (.inr hst)
    | dispatching => exact busy (.inl hst)
    | paused => exact busy (.inr hst)

end

/-- Settles O26: states alike at the port stay alike, and the byte touches nothing else. -/
theorem portsShareOnlyTheMap : Obligations.PortsShareOnlyTheMap := by
  intro p b s r t hunit hmap halarm hparams hdraws hfree hinv ht
  have halike : AlikeAt p s.evOut r.evOut s r :=
    ⟨hunit.symm, hmap.symm, halarm.symm, hparams.symm, hdraws.symm, hfree.symm, [], by simp, by simp⟩
  have hrx : slaveRx p b s = .next t := (onEvent_eq (.sRx p b) s).symm.trans ht
  obtain ⟨u, hu, -⟩ := withSlave_eq_next.mp hrx
  obtain ⟨t', ht', hafter⟩ := halike.onEvent_sRx hu (slavesInv_iff.mp hinv p u hu) ht
  have hframe : SlaveFrame p s t := by
    rcases slaveRx_cases hrx with rfl | hmoved
    · exact .refl p t
    · exact hmoved.1
  exact ⟨t', ht', hafter.unit, hafter.rpmMap, hafter.published, hframe.others, hframe.lock, hframe.mAcc, hframe.mTxq,
    hframe.poll, hframe.sc, hframe.scan⟩

end Sys2Proof.Machine
end

section
/-! SUPPORT. The configuration and access operations (R310 to R318): SLAVE_START and SLAVE_STOP by the unit's state,
the four configuration writes, one entry of the map. -/

namespace Sys2Proof.Machine

/-! ## SLAVE_START and SLAVE_STOP (R317, R318) -/

section
variable {p : Nat} {u : Slave} {s : State}

/-- A stopped unit starts seeking with empty buffers. -/
theorem execSlaveStart_of_stopped (hu : s.slaves[p]? = some u) (hst : u.state = .stopped) :
    execSlaveStart p s =
      .next (setSlave p { u with acc := [], txq := [], cancelReq := false, state := .seeking } s) :=
  (withSlave_of_some hu _).trans (if_pos hst)

theorem execSlaveStart_of_running (hu : s.slaves[p]? = some u) (hst : u.state ≠ .stopped) :
    execSlaveStart p s = .refused (.notAccepted "SLAVE_START") :=
  (withSlave_of_some hu _).trans (if_neg hst)

theorem execSlaveStop_of_stopped (hu : s.slaves[p]? = some u) (hst : u.state = .stopped) :
    execSlaveStop p s = .next s := by
  rw [execSlaveStop, withSlave_of_some hu, hst]

/-- A unit that serves no request stops at once. -/
theorem execSlaveStop_of_listening (hu : s.slaves[p]? = some u)
    (hst : u.state = .seeking ∨ u.state = .collecting ∨ u.state = .paused) :
    execSlaveStop p s = .next (stopSlave p u s) := by
  rw [execSlaveStop, withSlave_of_some hu]
  rcases hst with hst | hst | hst <;> rw [hst]

/-- In the processing delay the unit stops at once: its acknowledgment is never sent. -/
theorem execSlaveStop_of_delaying (hu : s.slaves[p]? = some u) (hst : u.state = .dispatching)
    (hph : u.phase = .delay) : execSlaveStop p s = .next (stopSlave p u s) := by
  simp only [execSlaveStop, withSlave_of_some hu, hst, hph]

/-- While a response leaves, the stop is only requested. -/
theorem execSlaveStop_of_sending (hu : s.slaves[p]? = some u) (hst : u.state = .dispatching)
    (hph : u.phase = .send) : execSlaveStop p s = .next (setSlave p { u with cancelReq := true } s) := by
  simp only [execSlaveStop, withSlave_of_some hu, hst, hph]

end

/-- Settles O12: SLAVE_START by its precondition, SLAVE_STOP by the kind of state it meets. -/
theorem slaveStartAndStop : Obligations.SlaveStartAndStop := fun _ _ _ hu =>
  ⟨fun hst => ⟨execSlaveStart_of_stopped hu hst, execSlaveStop_of_stopped hu hst⟩, execSlaveStart_of_running hu,
    execSlaveStop_of_listening hu, execSlaveStop_of_delaying hu, execSlaveStop_of_sending hu⟩

/-! ## The configuration writes (R310, R312, R313, R314) -/

/-- QUEUE_SET fills the pending slot, each clamp as a number. -/
theorem execQueueSet_eq (id : Byte) (rpm : Word16) (s : State) :
    execQueueSet id rpm s = .next { s with
      pend := { valid := true, id := BitVec.ofNat 7 (min (max id.toNat 1) 64)
                rpm := BitVec.ofNat 16 (min rpm.toNat s.maxRpm.toNat) } } := by
  rw [execQueueSet, idRegister_clampId_eq_ofNat, limitRpm]

/-- SET_MAXRPM stores its operand, saturated at the hard cap. -/
theorem execSetMaxRpm_eq (value : Word16) (s : State) :
    execSetMaxRpm value s = .next { s with maxRpm := BitVec.ofNat 11 (min value.toNat 2000) } := by
  rw [execSetMaxRpm, limitMaxRpm, maxRpmCap]

/-- Settles O13: the saturated ceiling, two operands stored as given, and the pending slot. -/
theorem configurationWrites : Obligations.ConfigurationWrites :=
  ⟨execSetMaxRpm_eq, fun _ _ => rfl, fun _ _ => rfl, execQueueSet_eq⟩

/-! ## One entry of the map (R315, R316) -/

/-- LOAD_RPM of an id of the map is a write of its entry. -/
theorem execLoadRpm_of_inRange {id : Byte} (hid : idInRange id = true) (rpm : Word16) (s : State) :
    execLoadRpm id rpm s = .next (writeMap id.toNat rpm s) := if_pos hid

/-- READ_RPM of an id of the map returns its entry. -/
theorem execReadRpm_of_inRange {id : Byte} (hid : idInRange id = true) (s : State) :
    execReadRpm id s = .next (returnToHost (.rpm (readMap s id.toNat)) s) := if_pos hid

theorem execLoadRpm_of_outside {id : Byte} (hid : idInRange id = false) (rpm : Word16) (s : State) :
    execLoadRpm id rpm s = .refused (.notAccepted "LOAD_RPM") := if_neg (Bool.not_eq_true _ ▸ hid)

theorem execReadRpm_of_outside {id : Byte} (hid : idInRange id = false) (s : State) :
    execReadRpm id s = .refused (.notAccepted "READ_RPM") := if_neg (Bool.not_eq_true _ ▸ hid)

/-- Settles O14: inside the range, the write of one entry and what it leaves; outside, the two refusals. -/
theorem loadAndReadOneMapEntry : Obligations.LoadAndReadOneMapEntry := by
  intro id rpm s
  refine ⟨fun h1 h64 => ?inside, fun hout => ?outside⟩
  case inside =>
    have hid : idInRange id = true := (idInRange_iff id).mpr ⟨h1, h64⟩
    refine ⟨⟨writeMap id.toNat rpm s, execLoadRpm_of_inRange hid rpm s, writeMap_rest id.toNat rpm s, ?_⟩,
      execReadRpm_of_inRange hid s⟩
    exact fun _ => readMap_writeMap rpm s
  case outside =>
    have hid : idInRange id = false := (idInRange_eq_false_iff id).mpr hout
    exact ⟨execLoadRpm_of_outside hid rpm s, execReadRpm_of_outside hid s⟩

end Sys2Proof.Machine
end

section
/-! SUPPORT. Every unit's part of a tick (R166, R196, R217, R249, R341): what it makes of the unit's own registers in
each of its states, and what the whole tick makes of them. -/

namespace Sys2Proof.Machine

/-! ## One unit's part, state by state -/

section
variable {s : State}

/-- Before its last tick a window's timer counts down (R166). -/
theorem pollTick_of_counting (hst : s.poll.state = .awaitingResponse) (htimer : s.poll.timer ≠ 1) :
    pollTick s = { s with poll := { s.poll with timer := s.poll.timer - 1 } } := by
  simp only [pollTick, hst]
  exact if_neg (mt (timer_reaches_zero _).mp htimer)

theorem pollTick_of_sleeping (hst : s.poll.state = .sleeping) :
    pollTick s = { s with poll := { s.poll with
      timer := s.poll.timer - 1, state := if s.poll.timer = 1 then .idle else .sleeping } } := by
  simp only [pollTick, hst, pollSleepTick, timer_reaches_zero]

theorem scTick_of_counting (hst : s.sc.state = .await) (htimer : s.sc.timer ≠ 1) :
    scTick s = { s with sc := { s.sc with timer := s.sc.timer - 1 } } := by
  simp only [scTick, hst]
  exact if_neg (mt (timer_reaches_zero _).mp htimer)

theorem scTick_of_backoff (hst : s.sc.state = .backoff) :
    scTick s = { s with sc := { s.sc with
      timer := s.sc.timer - 1, state := if s.sc.timer = 1 then .lockWait else .backoff } } := by
  simp only [scTick, hst, scBackoffTick, timer_reaches_zero]

theorem scanTick_of_counting (hst : s.scan.state = .await) (htimer : s.scan.timer ≠ 1) :
    scanTick s = { s with scan := { s.scan with timer := s.scan.timer - 1 } } := by
  simp only [scanTick, hst]
  exact if_neg (mt (timer_reaches_zero _).mp htimer)

theorem scanTick_of_retrySleep (hst : s.scan.state = .retrySleep) :
    scanTick s = { s with scan := { s.scan with
      timer := s.scan.timer - 1, state := if s.scan.timer = 1 then .lockWait else .retrySleep } } := by
  simp only [scanTick, hst, scanRetrySleepTick, timer_reaches_zero]

/-- The delay between two ids counts down, and at its end the next id waits for the lock (R196). -/
theorem scanTick_of_interDelay (hst : s.scan.state = .interDelay) :
    scanTick s = { s with scan := if s.scan.timer = 1
      then { s.scan with
        timer := 0, cur := s.scan.cur + 1, left := BitVec.ofNat 9 (s.scan.retries.toNat + 1), state := .lockWait }
      else { s.scan with timer := s.scan.timer - 1 } } := by
  simp only [scanTick, hst, scanInterDelayTick, timer_reaches_zero]
  split
  · rename_i htimer
    simp only [leaveInterDelay, attempts_eq_ofNat, (timer_reaches_zero _).mpr htimer]
  · rfl

end

/-! ## TXN.elapsed (R166) -/

section
variable {s : State}

theorem countElapsed_of_open (h : rxOpen s = true) :
    countElapsed s = { s with txn := { s.txn with
      elapsed := BitVec.ofNat 16 (min (s.txn.elapsed.toNat + 1) 65535) } } := by
  rw [countElapsed, if_pos h, saturatingSucc_eq]

theorem countElapsed_of_closed (h : rxOpen s = false) : countElapsed s = s := if_neg (Bool.eq_false_iff.mp h)

/-- A deadline publishes the count and leaves it as it is. -/
theorem deadline_txn (u : MasterUnit) (s : State) : (deadline u s).txn = s.txn := by
  rw [deadline_eq]
  cases u
  case poll =>
    rw [afterTimeout, enterSleep]
    split <;> rfl
  case sc =>
    dsimp only [afterTimeout, scAttemptFailed]
    split
    · rfl
    · split <;> rfl
  case scan =>
    rw [afterTimeout, scanAttemptFailed_eq, nextId_eq]
    split
    · rfl
    · split
      · rfl
      · split <;> rfl

theorem pollTick_txn (s : State) : (pollTick s).txn = s.txn := by
  by_cases hends : WindowEnds s .poll
  · rw [pollTick_of_ends hends, deadline_txn]
    rfl
  · obtain ⟨poll, htick⟩ := pollTick_of_not_ends hends
    rw [htick]

theorem scTick_txn (s : State) : (scTick s).txn = s.txn := by
  by_cases hends : WindowEnds s .sc
  · rw [scTick_of_ends hends, deadline_txn]
    rfl
  · obtain ⟨sc, htick⟩ := scTick_of_not_ends hends
    rw [htick]

theorem scanTick_txn (s : State) : (scanTick s).txn = s.txn := by
  by_cases hends : WindowEnds s .scan
  · rw [scanTick_of_ends hends, deadline_txn]
    rfl
  · obtain ⟨scan, htick⟩ := scanTick_of_not_ends hends
    rw [htick]

end

/-! ## The whole tick -/

section
variable {s t : State}

theorem SameMaster.countElapsed_txn (h : SameMaster s t) : (countElapsed t).txn = (countElapsed s).txn := by
  have hopen : rxOpen t = rxOpen s := by simp only [rxOpen, awaiting, h.lock, h.transactionKept.await]
  simp only [countElapsed, hopen, apply_ite State.txn, h.txn]

/-- Whatever else the tick does, POLL's registers are those of its own part. -/
theorem Ticked.poll (h : Ticked (List.range (s.slaves.length + 1)) s t) :
    ∃ r : State, r.poll = s.poll ∧ t.poll = (pollTick r).poll := by
  obtain ⟨m, hsm, hmt, -⟩ := h.master (by simp)
  exact ⟨countElapsed m, (countElapsed_poll m).trans hsm.poll,
    hmt.poll.trans ((scanTick_others _).1.trans (scTick_others _).1)⟩

theorem Ticked.sc (h : Ticked (List.range (s.slaves.length + 1)) s t) :
    ∃ r : State, r.sc = s.sc ∧ t.sc = (scTick r).sc := by
  obtain ⟨m, hsm, hmt, -⟩ := h.master (by simp)
  exact ⟨pollTick (countElapsed m), (pollTick_others _).1.trans ((countElapsed_sc m).trans hsm.sc),
    hmt.sc.trans (masterTick_sc m)⟩

theorem Ticked.scan (h : Ticked (List.range (s.slaves.length + 1)) s t) :
    ∃ r : State, r.scan = s.scan ∧ t.scan = (scanTick r).scan := by
  obtain ⟨m, hsm, hmt, -⟩ := h.master (by simp)
  exact ⟨scTick (pollTick (countElapsed m)),
    (scTick_others _).2.trans ((pollTick_others _).2.trans ((countElapsed_scan m).trans hsm.scan)), hmt.scan⟩

theorem Ticked.txn (h : Ticked (List.range (s.slaves.length + 1)) s t) : t.txn = (countElapsed s).txn := by
  obtain ⟨m, hsm, hmt, -⟩ := h.master (by simp)
  rw [hmt.txn, masterTick, scanTick_txn, scTick_txn, pollTick_txn, hsm.countElapsed_txn]

theorem Ticked.unit (h : Ticked (List.range (s.slaves.length + 1)) s t) {p : Nat} {u : Slave}
    (hu : s.slaves[p]? = some u) : ∃ v, t.slaves[p]? = some v ∧ SlaveTicked u v :=
  h.slaves p u (by simpa using (List.getElem?_eq_some_iff.mp hu).1) hu

theorem SlaveTicked.of_untimed {u v : Slave} (h : SlaveTicked u v) (huntimed : slvTimed u = false) : v = u := by
  rcases h with ⟨hst, hph, -⟩ | ⟨hst, hph, -⟩ | ⟨hst, -⟩ | ⟨hst, -⟩ | ⟨-, rfl⟩
  · simp [slvTimed, hst, hph] at huntimed
  · simp [slvTimed, hst, hph] at huntimed
  · simp [slvTimed, hst] at huntimed
  · simp [slvTimed, hst] at huntimed
  · rfl

end

/-- Settles O37: the tick completes with every unit's own part done once; each clause is that part in one state. -/
theorem tickMovesEachTimerOnce : Obligations.TickMovesEachTimerOnce := by
  intro s
  obtain ⟨t, ht, hticked⟩ := tick_spec s
  obtain ⟨p, hp, hpoll⟩ := hticked.poll
  obtain ⟨c, hc, hsc⟩ := hticked.sc
  obtain ⟨n, hn, hscan⟩ := hticked.scan
  have htxn := hticked.txn
  have hunit : ∀ {q : Nat} {u v : Slave}, s.slaves[q]? = some u → (∀ w, SlaveTicked u w → w = v) →
      t.slaves[q]? = some v := fun hu hv => by
    obtain ⟨w, hw, huw⟩ := hticked.unit hu
    exact hw.trans (congrArg some (hv w huw))
  refine ⟨t, (onEvent_eq .tick s).trans ht, fun hst => ?sleeping, fun hst => ?pollUntimed,
    fun hst htimer => ?pollAwaits, fun hst => ?backoff, fun hst => ?scUntimed, fun hst htimer => ?scAwaits,
    fun hst => ?retrySleep, fun hst => ?interDelay, fun hst => ?scanUntimed, fun hst htimer => ?scanAwaits,
    fun hopen => ?opened, fun hclosed => ?closed, fun q u hu huntimed => hunit hu fun w hw => hw.of_untimed huntimed,
    fun q u hu hst hph => hunit hu fun w hw => hw.of_delay hst hph,
    fun q u hu hst htimer => hunit hu fun w hw => hw.of_pause hst htimer⟩
  case sleeping => rw [hpoll, pollTick_of_sleeping (hp ▸ hst), hp]
  case pollAwaits => rw [hpoll, pollTick_of_counting (hp ▸ hst) (hp ▸ htimer), hp]
  case pollUntimed =>
    have huntimed : pollTimed p = false := by rcases hst with hst | hst | hst <;> simp [pollTimed, hp, hst]
    rw [hpoll, pollTick_of_untimed huntimed, hp]
  case backoff => rw [hsc, scTick_of_backoff (hc ▸ hst), hc]
  case scAwaits => rw [hsc, scTick_of_counting (hc ▸ hst) (hc ▸ htimer), hc]
  case scUntimed =>
    have huntimed : scTimed c = false := by rcases hst with hst | hst | hst <;> simp [scTimed, hc, hst]
    rw [hsc, scTick_of_untimed huntimed, hc]
  case retrySleep => rw [hscan, scanTick_of_retrySleep (hn ▸ hst), hn]
  case interDelay => rw [hscan, scanTick_of_interDelay (hn ▸ hst), hn]
  case scanAwaits => rw [hscan, scanTick_of_counting (hn ▸ hst) (hn ▸ htimer), hn]
  case scanUntimed =>
    have huntimed : scanTimed n = false := by rcases hst with hst | hst | hst <;> simp [scanTimed, hn, hst]
    rw [hscan, scanTick_of_untimed huntimed, hn]
  case opened => rw [htxn, countElapsed_of_open hopen]
  case closed => rw [htxn, countElapsed_of_closed hclosed]

end Sys2Proof.Machine
end

section
/-! SUPPORT. The timers (R341): a unit that enters a timed state loads its timer, and one whose timer runs out leaves
the state in the same step, so no event leaves a timed unit with its timer at 0. -/

namespace Sys2Proof.Machine

/-! ## Running timers -/

/-- U is in a state in which its timer runs (R341). -/
def unitTimed (s : State) : MasterUnit → Bool
  | .poll => pollTimed s
  | .sc => scTimed s
  | .scan => scanTimed s

/-- The master unit U is in no timed state, or its timer is above 0. -/
def UnitRuns (u : MasterUnit) (s : State) : Prop := unitTimed s u = true → unitTimer s u ≠ 0

/-- Every master unit is so. -/
def MasterRuns (s : State) : Prop := ∀ u, UnitRuns u s

/-- The slave unit is in no timed state, or its timer is above 0. -/
def SlaveRuns (u : Slave) : Prop := slvTimed u = true → u.timer ≠ 0

section
variable {u : MasterUnit} {s t : State}

/-- The units are looked at one by one, those of the slave ports port by port. -/
theorem timersInv_iff :
    TimersInv s ↔ MasterRuns s ∧ ∀ (p : Nat) (u : Slave), s.slaves[p]? = some u → SlaveRuns u := by
  constructor
  · intro h
    refine ⟨fun u => ?_, fun p u hu => h.slaves u (List.mem_of_getElem? hu)⟩
    cases u
    case poll => exact h.poll
    case sc => exact h.sc
    case scan => exact h.scan
  · rintro ⟨hmaster, hslaves⟩
    refine ⟨hmaster .poll, hmaster .sc, hmaster .scan, fun u hu => ?_⟩
    obtain ⟨p, hp⟩ := List.mem_iff_getElem?.mp hu
    exact hslaves p u hp

theorem UnitRuns.of_untimed (h : unitTimed s u = false) : UnitRuns u s :=
  fun hu => absurd (hu.symm.trans h) nofun

/-- A timer counted down before its last tick is still above 0. -/
theorem UnitRuns.of_counting {x : Word16} (h : x ≠ 1) (ht : unitTimer s u = x - 1 := by rfl) : UnitRuns u s :=
  fun _ hzero => h ((timer_reaches_zero x).mp (ht.symm.trans hzero))

theorem SameUnit.runs (h : SameUnit u s t) (hs : UnitRuns u s) : UnitRuns u t := by
  cases u
  case poll => simpa only [UnitRuns, unitTimed, pollTimed, unitTimer, show t.poll = s.poll from h] using hs
  case sc => simpa only [UnitRuns, unitTimed, scTimed, unitTimer, show t.sc = s.sc from h] using hs
  case scan => simpa only [UnitRuns, unitTimed, scanTimed, unitTimer, show t.scan = s.scan from h] using hs

theorem OthersKept.trans {m : State} (h : OthersKept u s m) (k : OthersKept u m t) : OthersKept u s t :=
  ⟨fun hu => (k.poll hu).trans (h.poll hu), fun hu => (k.sc hu).trans (h.sc hu),
    fun hu => (k.scan hu).trans (h.scan hu)⟩

/-- One unit moves, and its timer runs where it has to. -/
theorem MasterRuns.of_others (h : MasterRuns s) (hothers : OthersKept u s t) (hu : UnitRuns u t) : MasterRuns t :=
  fun v => by
    by_cases hv : v = u
    · exact hv ▸ hu
    · exact (hothers.unit (Ne.symm hv)).runs (h v)

theorem MasterRuns.congr (h : MasterRuns s) (hpoll : t.poll = s.poll) (hsc : t.sc = s.sc)
    (hscan : t.scan = s.scan) : MasterRuns t :=
  h.of_others (.of_poll hsc hscan) (SameUnit.runs hpoll (h .poll))

theorem SameMaster.runs (hs : SameMaster s t) (h : MasterRuns s) : MasterRuns t :=
  h.congr hs.poll hs.sc hs.scan

end

/-! ## The continuations of an attempt -/

theorem enterSleep_runs (d : Word16) (s : State) : UnitRuns .poll (enterSleep d s) := by
  unfold enterSleep
  split
  · exact .of_untimed rfl
  · by_cases hd : d = 0
    · rw [if_pos hd]
      exact .of_untimed rfl
    · exact fun _ => hd

theorem scAttemptFailed_runs (s : State) : UnitRuns .sc (scAttemptFailed s) := by
  unfold scAttemptFailed
  dsimp only
  split
  · exact .of_untimed rfl
  · split
    · exact .of_untimed rfl
    · rename_i hbackoff
      exact fun _ => hbackoff

theorem nextId_runs (s : State) : UnitRuns .scan (nextId s) := by
  rw [nextId_eq]
  split
  · exact .of_untimed rfl
  · split
    · exact .of_untimed rfl
    · rename_i hdelay
      exact fun _ => hdelay

theorem scanAttemptFailed_runs (s : State) : UnitRuns .scan (scanAttemptFailed s) := by
  unfold scanAttemptFailed
  dsimp only
  split
  · exact nextId_runs _
  · split
    · exact .of_untimed rfl
    · rename_i hsleep
      exact fun _ => hsleep

theorem deadline_runs (u : MasterUnit) (s : State) : UnitRuns u (deadline u s) := by
  rw [deadline_eq]
  cases u
  case poll => exact enterSleep_runs _ _
  case sc => exact scAttemptFailed_runs _
  case scan => exact scanAttemptFailed_runs _

/-! ## The tick -/

/-- POLL's part of a tick leaves its timer running whatever it was: a window or a sleep whose timer reaches 0 is over.
-/
theorem pollTick_runs (s : State) : UnitRuns .poll (pollTick s) := by
  by_cases htimer : s.poll.timer = 1
  all_goals cases hst : s.poll.state
  case pos.awaitingResponse =>
    rw [pollTick_of_ends ⟨decide_eq_true hst, htimer⟩]
    exact deadline_runs .poll _
  case pos.sleeping =>
    rw [pollTick_of_sleeping hst, if_pos htimer]
    exact .of_untimed rfl
  case neg.awaitingResponse =>
    rw [pollTick_of_counting hst htimer]
    exact .of_counting htimer
  case neg.sleeping =>
    rw [pollTick_of_sleeping hst]
    exact .of_counting htimer
  all_goals
    have huntimed : pollTimed s = false := by simp [pollTimed, hst]
    rw [pollTick_of_untimed huntimed]
    exact .of_untimed huntimed

theorem scTick_runs (s : State) : UnitRuns .sc (scTick s) := by
  by_cases htimer : s.sc.timer = 1
  all_goals cases hst : s.sc.state
  case pos.await =>
    rw [scTick_of_ends ⟨decide_eq_true hst, htimer⟩]
    exact deadline_runs .sc _
  case pos.backoff =>
    rw [scTick_of_backoff hst, if_pos htimer]
    exact .of_untimed rfl
  case neg.await =>
    rw [scTick_of_counting hst htimer]
    exact .of_counting htimer
  case neg.backoff =>
    rw [scTick_of_backoff hst]
    exact .of_counting htimer
  all_goals
    have huntimed : scTimed s = false := by simp [scTimed, hst]
    rw [scTick_of_untimed huntimed]
    exact .of_untimed huntimed

theorem scanTick_runs (s : State) : UnitRuns .scan (scanTick s) := by
  by_cases htimer : s.scan.timer = 1
  all_goals cases hst : s.scan.state
  case pos.await =>
    rw [scanTick_of_ends ⟨decide_eq_true hst, htimer⟩]
    exact deadline_runs .scan _
  case pos.retrySleep =>
    rw [scanTick_of_retrySleep hst, if_pos htimer]
    exact .of_untimed rfl
  case pos.interDelay =>
    rw [scanTick_of_interDelay hst, if_pos htimer]
    exact .of_untimed rfl
  case neg.await =>
    rw [scanTick_of_counting hst htimer]
    exact .of_counting htimer
  case neg.retrySleep =>
    rw [scanTick_of_retrySleep hst]
    exact .of_counting htimer
  case neg.interDelay =>
    rw [scanTick_of_interDelay hst, if_neg htimer]
    exact .of_counting htimer
  all_goals
    have huntimed : scanTimed s = false := by simp [scanTimed, hst]
    rw [scanTick_of_untimed huntimed]
    exact .of_untimed huntimed

/-- After a tick every unit's timer runs where it has to, each by its own part (R341). -/
theorem Ticked.timersInv {s t : State} (ht : Ticked (List.range (s.slaves.length + 1)) s t) (h : TimersInv s) :
    TimersInv t := by
  obtain ⟨-, hslaves⟩ := timersInv_iff.mp h
  refine timersInv_iff.mpr ⟨fun u => ?_, fun p v hv => ?_⟩
  · cases u
    case poll =>
      obtain ⟨r, -, hpoll⟩ := ht.poll
      exact SameUnit.runs (u := .poll) hpoll (pollTick_runs r)
    case sc =>
      obtain ⟨r, -, hsc⟩ := ht.sc
      exact SameUnit.runs (u := .sc) hsc (scTick_runs r)
    case scan =>
      obtain ⟨r, -, hscan⟩ := ht.scan
      exact SameUnit.runs (u := .scan) hscan (scanTick_runs r)
  · have hp : p < s.slaves.length := ht.ports ▸ (List.getElem?_eq_some_iff.mp hv).1
    have hu := List.getElem?_eq_getElem hp
    obtain ⟨w, hw, huw⟩ := ht.unit hu
    cases hw.symm.trans hv
    exact huw.moved.timed (hslaves p _ hu)

/-! ## The events of the transport -/

section
variable {s t : State}

@[simp] theorem dispatchResponse_poll (p : ParsedResponse) (s : State) : (dispatchResponse p s).poll = s.poll := by
  cases p <;> simp [dispatchResponse]

theorem dispatchResponse_runs (p : ParsedResponse) (h : MasterRuns s) : MasterRuns (dispatchResponse p s) :=
  h.congr (dispatchResponse_poll p s) (dispatchResponse_sc p s) (dispatchResponse_scan p s)

theorem scVerdict_runs (v : Verdict) (h : MasterRuns s) : MasterRuns (scVerdict v s) := by
  cases v
  case bad e w => exact h.congr rfl rfl rfl
  case ok p w =>
    have hp := dispatchResponse_runs p h
    cases hmatches : scMatches s p
    case false => exact scVerdict_of_not_matches hmatches w ▸ hp
    case true =>
      rw [scVerdict_of_matches hmatches]
      exact hp.of_others (u := .sc) (.of_sc rfl rfl) (.of_untimed rfl)

theorem scanVerdict_runs (v : Verdict) (h : MasterRuns s) : MasterRuns (scanVerdict v s) := by
  cases v
  case bad e w => exact h.congr rfl rfl rfl
  case ok p w =>
    have hp := dispatchResponse_runs p h
    cases haccepted : scanAccepts s p
    case false => exact scanVerdict_of_not_accepted haccepted w ▸ hp
    case true =>
      rw [scanVerdict_of_accepted haccepted]
      have hended : TransactionEnded .scan (dispatchResponse p s)
          (nextId (endTxn .scan w false false (scanRecord (dispatchResponse p s)))) := nextId_ended rfl rfl
      exact hp.of_others hended.others (nextId_runs _)

theorem deliver_runs (v : Verdict) (h : MasterRuns s) : MasterRuns (deliver v s) := by
  unfold deliver
  split
  · exact h
  · exact h.of_others (pollVerdict_ended v s).others (enterSleep_runs _ _)
  · exact scVerdict_runs v h
  · exact scanVerdict_runs v h

/-- A window of duration 0 does not stay open (R162). -/
theorem openWindow_runs (u : MasterUnit) (h : MasterRuns s) : MasterRuns (openWindow u s) := by
  unfold openWindow
  dsimp only
  have hothers := enterAwait_others u s
  generalize enterAwait u { s with mAcc := [], txn := { s.txn with elapsed := 0 } } = m at hothers
  split
  · exact h.of_others (hothers.trans (deadline_ended u m).others) (deadline_runs u m)
  · rename_i htimer
    exact h.of_others hothers fun _ => htimer

theorem masterTxByte_runs (h : MasterRuns s) : MasterRuns (masterTxByte s) := by
  unfold masterTxByte
  split
  · exact h
  · dsimp only
    split
    · exact openWindow_runs _ (h.congr rfl rfl rfl)
    · exact h.congr rfl rfl rfl

theorem masterFault_runs (h : MasterRuns s) : MasterRuns (masterFault s) := by
  cases hlock : s.lock with
  | free =>
    rw [masterFault_of_free hlock]
    exact h
  | held u =>
    refine h.of_others (masterFault_ended hlock).others ?_
    rw [masterFault, hlock]
    cases u
    case poll => exact enterSleep_runs _ _
    case sc => exact scAttemptFailed_runs _
    case scan => exact scanAttemptFailed_runs _

/-- A grant puts the unit into its transmit state, where no timer runs (R168). -/
theorem grant_runs (u : MasterUnit) (h : MasterRuns s) : MasterRuns (grant u s) :=
  h.of_others (grant_others u s) (.of_untimed (by cases u <;> rfl))

/-! ## The host operations -/

/-- A listener just started waits for no time (R317). -/
theorem execSlaveStart_moved {p : Nat} (he : execSlaveStart p s = .next t) : PortMoved p s t := by
  obtain ⟨u, hu, he⟩ := withSlave_eq_next.mp he
  split at he <;> cases he
  refine .of_setSlave hu ⟨fun _ => ?_, List.prefix_refl _, fun _ htimed => absurd htimed nofun⟩
  constructor <;> simp

theorem stopSlave_moved {p : Nat} {u : Slave} (hu : s.slaves[p]? = some u) : PortMoved p s (stopSlave p u s) :=
  ⟨(setSlave_frame p _ s).trans (emit_slaveFrame p _ rfl), u, _, hu, getElem?_setSlave_self _ hu,
    fun _ => .of_stopped rfl rfl rfl, List.prefix_refl _, fun _ htimed => absurd htimed nofun⟩

theorem execSlaveStop_cases {p : Nat} (he : execSlaveStop p s = .next t) : t = s ∨ PortMoved p s t := by
  obtain ⟨u, hu, he⟩ := withSlave_eq_next.mp he
  cases hst : u.state <;> rw [hst] at he
  case stopped | validating =>
    cases he
    exact .inl rfl
  case seeking | collecting | paused =>
    cases he
    exact .inr (stopSlave_moved hu)
  case dispatching =>
    cases hph : u.phase <;> rw [hph] at he <;> cases he
    case delay => exact .inr (stopSlave_moved hu)
    case send =>
      refine .inr (.of_setSlave hu ⟨fun hok => ?_, List.prefix_refl _, fun _ htimed => absurd htimed nofun⟩)
      have hsending := hok.sending
      rw [hst, hph] at hsending
      exact ⟨nofun, nofun, nofun, nofun, hsending⟩

theorem execPollCancel_runs (he : execPollCancel s = .next t) (h : MasterRuns s) : MasterRuns t := by
  unfold execPollCancel at he
  cases hst : s.poll.state <;> rw [hst] at he <;> cases he
  case cancelled | parsing => exact h
  case idle | sleeping => exact h.of_others (u := .poll) (.of_poll rfl rfl) (.of_untimed rfl)
  case transmitting | awaitingResponse => exact h.of_others (u := .poll) (.of_poll rfl rfl) (h .poll)

theorem execScan_runs {start stop retries : Byte} {interDelay readTimeout : Word16}
    (he : execScan start stop retries interDelay readTimeout s = .next t) (h : MasterRuns s) : MasterRuns t := by
  unfold execScan at he
  dsimp only at he
  split at he
  · split at he <;> cases he <;> exact h.of_others (u := .scan) (.of_scan rfl rfl) (.of_untimed rfl)
  · cases he

/-- An operation that starts or stops a master unit leaves it in a state without a timer; but for SLAVE_START and
SLAVE_STOP, the other operations write no unit's state. -/
theorem exec_hostOp_runs {i : Instr} (hi : i.isHostOp = true) (hstart : ∀ p, i ≠ .slaveStart p)
    (hstop : ∀ p, i ≠ .slaveStop p) (he : exec i s = .next t) (h : MasterRuns s) : MasterRuns t := by
  cases i
  case reqRead | reqSet | rspAck | rspRead => cases hi
  case scan => exact execScan_runs he h
  case trySet =>
    simp only [exec, execTrySet] at he
    split at he <;> cases he
    exact h.of_others (u := .sc) (.of_sc rfl rfl) (.of_untimed rfl)
  case pollStart =>
    simp only [exec, execPollStart] at he
    split at he <;> cases he
    exact h.of_others (u := .poll) (.of_poll rfl rfl) (.of_untimed rfl)
  case pollCancel => exact execPollCancel_runs he h
  case slaveStart p => exact absurd rfl (hstart p)
  case slaveStop p => exact absurd rfl (hstop p)
  case loadRpm =>
    simp only [exec, execLoadRpm] at he
    split at he <;> cases he
    exact h.congr (writeMap_poll _ _ s) (writeMap_sc _ _ s) (writeMap_scan _ _ s)
  case decodeResponse | estimate | readRpm =>
    simp only [exec, execDecodeResponse, execEstimate, execReadRpm] at he
    split at he <;> cases he <;> exact h.congr rfl rfl rfl
  all_goals
    cases he
    exact h.congr rfl rfl rfl

/-! ## The steps -/

theorem TimersInv.of_slaves_eq (h : TimersInv s) (hslaves : t.slaves = s.slaves) (ht : MasterRuns t) : TimersInv t :=
  timersInv_iff.mpr ⟨ht, hslaves ▸ (timersInv_iff.mp h).2⟩

theorem TimersInv.master (h : TimersInv s) : MasterRuns s := (timersInv_iff.mp h).1

theorem PortMoved.timersInv {p : Nat} (hmoved : PortMoved p s t) (h : TimersInv s) : TimersInv t := by
  obtain ⟨hmaster, hslaves⟩ := timersInv_iff.mp h
  obtain ⟨hframe, u, v, hu, hv, huv⟩ := hmoved
  refine timersInv_iff.mpr ⟨hframe.same.runs hmaster, fun q w hw => ?_⟩
  by_cases hq : q = p
  · subst hq
    cases hv.symm.trans hw
    exact huv.timed (hslaves q u hu)
  · rw [hframe.others q hq] at hw
    exact hslaves q w hw

theorem exec_hostOp_timersInv {i : Instr} (hi : i.isHostOp = true) (he : exec i s = .next t) (h : TimersInv s) :
    TimersInv t := by
  cases i
  case slaveStart => exact (execSlaveStart_moved he).timersInv h
  case slaveStop =>
    obtain rfl | hmoved := execSlaveStop_cases he
    · exact h
    · exact hmoved.timersInv h
  all_goals exact h.of_slaves_eq (exec_hostOp_slaves hi nofun nofun he) (exec_hostOp_runs hi nofun nofun he h.master)

theorem Happened.timersInv {e : Input} (hh : Happened e s t) (h : TimersInv s) : TimersInv t := by
  cases hh with
  | host hd hi he => exact exec_hostOp_timersInv hi he h
  | tick ht => exact ht.timersInv h
  | none => exact h
  | received acc ho ha => exact h.of_slaves_eq rfl (h.master.congr rfl rfl rfl)
  | judged v ho => exact h.of_slaves_eq (deliver_frame v _).slaves (deliver_runs v (h.master.congr rfl rfl rfl))
  | sent => exact h.of_slaves_eq (masterTxByte_frame s).slaves (masterTxByte_runs h.master)
  | fault => exact h.of_slaves_eq (masterFault_frame s).slaves (masterFault_runs h.master)
  | granted hg => exact h.of_slaves_eq (grant_frame _ s).slaves (grant_runs _ h.master)
  | skipped hs =>
    exact h.of_slaves_eq (enterSleep_frame _ s).slaves
      (h.master.of_others (.of_poll (enterSleep_sc _ s) (enterSleep_scan _ s)) (enterSleep_runs _ s))
  | port hp => exact hp.timersInv h

end

/-- Settles O55: by what a step can do; each event that moves a unit loads its timer, or leaves the timed state. -/
theorem stepKeepsTimersRunning : Obligations.StepKeepsTimersRunning := by
  intro s t h hstep
  rcases step_cases hstep with ⟨-, -, rfl⟩ | ⟨e, rest, n, -, hH⟩
  · exact h
  · exact hH.timersInv (h.of_slaves_eq rfl (h.master.congr rfl rfl rfl))

end Sys2Proof.Machine
end

section
/-! SUPPORT. The events of the transports and the tick (R330, R371): each has a next state, and the state after reset is
the next state of each. -/

namespace Sys2Proof.Machine

/-! ## Every transport event has a next state (R330) -/

section
variable {p : Nat} {u : Slave} {s : State}

theorem masterRx_next (b : Byte) (s : State) : ∃ t, masterRx b s = .next t := by
  rcases masterRx_cases b s with ⟨-, h⟩ | ⟨-, _, -, h⟩ | ⟨-, _, h⟩
  all_goals exact ⟨_, h⟩

/-- The assembler always comes to an end (R282). -/
theorem assemble_next (hu : s.slaves[p]? = some u) (hst : u.state = .seeking ∨ u.state = .collecting) :
    ∃ t, assemble p s = .next t := by
  obtain ⟨t, -, ht, -⟩ := assemble_spec p s u hu hst
  exact ⟨t, ht⟩

theorem resumeSeeking_next (hu : s.slaves[p]? = some u) (v : Slave) : ∃ t, resumeSeeking p v s = .next t :=
  assemble_next (getElem?_setSlave_self _ hu) (.inl rfl)

/-- A byte at a port has a next state where the listener is stopped or has room (R281, R282). -/
theorem slaveRx_next (hu : s.slaves[p]? = some u) (b : Byte)
    (hroom : u.state = .stopped ∨ accFull s.params u = false) : ∃ t, slaveRx p b s = .next t := by
  rw [slaveRx, withSlave_of_some hu]
  by_cases hstopped : u.state = .stopped
  · exact ⟨s, if_pos hstopped⟩
  · rw [if_neg hstopped, hroom.resolve_left hstopped, if_neg Bool.false_ne_true]
    dsimp only
    split
    · rename_i hst
      exact assemble_next (getElem?_setSlave_self _ hu) hst
    · exact ⟨_, rfl⟩

theorem slaveTxByte_next (hu : s.slaves[p]? = some u) : ∃ t, slaveTxByte p s = .next t := by
  rcases hq : u.txq with _ | ⟨b, _ | ⟨c, rest⟩⟩
  · exact ⟨s, slaveTxByte_of_empty hu hq⟩
  · rw [slaveTxByte_of_last hu hq]
    split
    · exact ⟨_, rfl⟩
    · exact resumeSeeking_next hu _
  · exact ⟨_, slaveTxByte_of_more hu hq⟩

theorem slaveFault_next (hu : s.slaves[p]? = some u) : ∃ t, slaveFault p s = .next t := by
  by_cases hst : u.state = .stopped
  · exact ⟨s, slaveFault_of_stopped hu hst⟩
  · rw [slaveFault_of_running hu hst]
    split
    · exact resumeSeeking_next (s := raise (.transportFault .s) s) hu _
    · exact ⟨_, rfl⟩

end

/-- Settles O47: the tick and the master's events in every state, a port's events by its unit. -/
theorem noTransportEventStopsTheBlock : Obligations.NoTransportEventStopsTheBlock := by
  intro e s hevent hport
  rw [onEvent_eq]
  cases e
  case tick =>
    obtain ⟨t, ht, -⟩ := tick_spec s
    exact ⟨t, ht⟩
  case mRx b => exact masterRx_next b s
  case mTxByte | mXfault => exact ⟨_, rfl⟩
  case sRx p b =>
    obtain ⟨u, hu, hroom⟩ := hport p rfl
    exact slaveRx_next hu b (hroom b rfl)
  case sTxByte p =>
    obtain ⟨u, hu, -⟩ := hport p rfl
    exact slaveTxByte_next hu
  case sXfault p =>
    obtain ⟨u, hu, -⟩ := hport p rfl
    exact slaveFault_next hu
  case host | grant | pollSkip => cases hevent

/-! ## The state after reset (R371) -/

theorem enabledInternal_resetWith (ports : Nat) : enabledInternal (State.resetWith ports) = [] := rfl

theorem slaves_resetWith {ports p : Nat} (h : p < ports) : (State.resetWith ports).slaves[p]? = some Slave.reset :=
  List.getElem?_replicate_of_lt h

/-- With every timer stopped a tick does nothing. -/
theorem onEvent_tick_resetWith (ports : Nat) :
    onEvent .tick (State.resetWith ports) = .next (State.resetWith ports) := by
  have hslaves : ∀ u ∈ (State.resetWith ports).slaves, slvTimed u = false := fun u hu => by
    rw [eq_reset_of_mem_slaves hu]
    rfl
  rw [onEvent_tick_of_untimed hslaves, masterTick_of_untimed rfl rfl rfl]

/-- A stopped listener with nothing to send takes no notice of its port's events. -/
theorem onEvent_of_quiet_port {p : Nat} {u : Slave} {s : State} (hu : s.slaves[p]? = some u)
    (hst : u.state = .stopped) (hq : u.txq = []) {e : Input} (hp : portOf e = some p) : onEvent e s = .next s := by
  cases e <;> cases hp
  case sRx b => exact onEvent_sRx_of_stopped hu hst b
  case sTxByte => exact (onEvent_eq _ s).trans (slaveTxByte_of_empty hu hq)
  case sXfault => exact (onEvent_eq _ s).trans (slaveFault_of_stopped hu hst)

/-- Settles O49: the reset values; no event finds a running timer, an open window, a queued byte or a started unit. -/
theorem resetIsQuiescent : Obligations.ResetIsQuiescent := by
  refine ⟨rfl, fun ports => ⟨⟨rfl, rfl, rfl, fun u hu => ?_, rfl, rfl, rfl, rfl⟩,
    enabledInternal_resetWith ports, ?_, fun e hevent hport => ?_⟩⟩
  · rw [eq_reset_of_mem_slaves hu]
    rfl
  · obtain ⟨hnone, -, -⟩ := internalStepsTakeEnabledEvents (State.resetWith ports) rfl
    exact hnone (enabledInternal_resetWith ports)
  · cases e
    case tick => exact onEvent_tick_resetWith ports
    case mRx b => exact (onEvent_eq _ _).trans (masterRx_of_closed (rxOpen_of_free rfl))
    case mTxByte => rfl
    case mXfault => rw [onEvent_eq, handle, masterFault_of_free rfl]
    case sRx p _ | sTxByte p | sXfault p =>
      exact onEvent_of_quiet_port (slaves_resetWith (hport p rfl)) rfl rfl rfl
    case host | grant | pollSkip => cases hevent

end Sys2Proof.Machine
end
